-- ==== Sys2Proof/Word.lean ====
section
/-! DEFINITION. The word type of the block (R8) and the shape of its indexed stores: a bank of 2^n words
(`RSL` and `MM` with n = 8, R15, R16, R32; the mixing accumulators `P` with n = 3, R23).

The arithmetic of the rules is BitVec's own: `u + v` is addition mod 2^32 (R9), `^^^` and `&&&` are bitwise (R10),
`<<<` and `>>>` are logical shifts that lose the bits shifted out (R11). No operation here is signed (R12). -/

namespace Sys2Proof

/-- R8: a word is a 32-bit unsigned integer, bit 31 most significant. -/
abbrev Word := BitVec 32

/-- One 8-bit item of a byte seed (R50). -/
abbrev Byte := BitVec 8

/-- A store of `2 ^ n` words, one word for each `n`-bit index. The length is in the type: R21, "no resizing". -/
abbrev Bank (n : Nat) := Vector Word (2 ^ n)

/-- R20: the cursor is an integer in 0 to 256; the values 257 to 511 of its 9-bit register are not legal state. -/
abbrev Cursor := Fin 257

end Sys2Proof
end

