-- ==== Sys2Proof/Config.lean ====
section
/-! DEFINITION. What is fixed for this hardware (the parameters of R5) and the free values of the two agents outside
the core (R6): the payload items a host sends and the words an entropy source answers, where the state lists none. -/

namespace Sys2Proof

/-- R37: the two meaningful byte orders of the byte-seed overlay. -/
inductive ByteOrder where
  | little
  | big
  deriving DecidableEq, Repr

/-- R5 `SEED_BYTE_ORDER`, little-endian for this hardware (R37, decision D7; log entry 4). -/
def Config.seedByteOrder : ByteOrder := .little

/-- R5 `RANDSIZ`: words in `RSL` and in `MM`. -/
def Config.randsiz : Nat := 256

/-- R5 `RANDSIZL`: the right shift of the second indirect lookup. -/
def Config.randsizl : Nat := 8

/-- R5 `HALF`: the distance between a word of `MM` and its paired word. -/
def Config.half : BitVec 8 := 128#8

/-- R5 `IND_MASK`: the byte-offset mask of the indirect lookup, `(256-1) << 2`. -/
def Config.indMask : Word := 0x000003FC#32

/-- R5 `GOLDEN`: the start value of the eight mixing accumulators. -/
def Config.golden : Word := 0x9E3779B9#32

/-- R5 `MIX_SHIFT[0..7]`. -/
def Config.mixShifts : Vector Nat 8 := #v[11, 2, 8, 16, 10, 4, 8, 9]

/-- R5 `SCRAMBLE_ROUNDS`: mix applications before any seed word is absorbed. -/
def Config.scrambleRounds : Nat := 4

/-- R5 `GROUP`: words of an absorption group. -/
def Config.group : Nat := 8

/-- R5: the 32 absorption groups of 8 words that cover the 256 words. -/
def Config.groups : Nat := 32

/-- R5 `SEED_BYTES_MAX`: bytes of a byte seed that are used. -/
def Config.seedBytesMax : Nat := 1024

/-- R58, R84: the pseudo-command constants `MIN` and `MAX`, the least and the greatest output. -/
def Config.minOutput : Word := 0x00000000#32

/-- R58, R84: see `Config.minOutput`. -/
def Config.maxOutput : Word := 0xFFFFFFFF#32

/-- FREE VALUE (DESIGN CHOICE, log entry 5): the k-th 8-bit item a host that goes on sending puts on `SDAT`, where the state
lists no item. Any value is possible; nothing evaluates it. -/
opaque Config.payloadByte : Nat → Byte

/-- FREE VALUE (DESIGN CHOICE, log entry 5): the k-th 32-bit item a host that goes on sending puts on `SDAT`. -/
opaque Config.payloadWord : Nat → Word

/-- FREE VALUE (R6, I2, log entry 6): the k-th answer of an entropy source that goes on answering, where the state lists none;
"256 free 32-bit inputs of the SEEDE step, under no law". -/
opaque Config.entropyWord : Nat → Word

end Sys2Proof
end

