-- ==== Sys2Proof/Syntax.lean ====
section
/-! DEFINITION. The six commands (R3, R48), the pseudo-commands that are other spellings of them (R58), the items of the
seed-data port (R50, R51) and what a host puts on its side of the command port (R46). -/

namespace Sys2Proof

/-- R48: one constructor per row of the opcode map, with the 64-bit count `N` (R47, R49) where the row lets it vary.
`seed0`, `seede` and `next` carry no count: theirs must be 0 (R49, R54). -/
inductive Instr where
  | seed0
  | seedb (n : BitVec 64)
  | seedw (n : BitVec 64)
  | seede
  | next
  | discard (n : BitVec 64)
  deriving DecidableEq, Repr

/-- R46: one item on `SDAT`, 8 bits wide for `SEEDB` (R50) and 32 bits wide for `SEEDW` (R51). -/
inductive SdatItem where
  | byte (b : Byte)
  | word (w : Word)
  deriving DecidableEq, Repr

/-- R46, R50, R51: one command word on `CMD` with the payload items the host sends after it. -/
structure Request where
  cw   : BitVec 72
  sdat : List SdatItem
  deriving DecidableEq, Repr

/-- R58: the spellings of the document's interface that are not commands of their own. `CLONE`, `EQUALS`, `DUMP` and
`LOAD` are "not commands of this hardware" and `MIN`, `MAX` are constants (`Config.minOutput`, `Config.maxOutput`). -/
inductive PseudoCommand where
  | new
  | newBytes (length : BitVec 64)
  | newWords (length : BitVec 64)
  | newEntropy
  | reseedBytes (length : BitVec 64)
  | reseedWords (length : BitVec 64)
  | reseedEntropy
  | call
  deriving DecidableEq, Repr

end Sys2Proof
end

