-- ==== Sys2Proof/WellFormed.lean ====
section
/-! DEFINITION. Well-formedness. The types of `Instr` already hold each operand in its encoded width (R47), so an
instruction as syntax has nothing further to check; what can be ill-formed is the payload a host sends with it
(R50, R51, R108 (1); the spec's I5). -/

namespace Sys2Proof

/-- The item as an 8-bit item, where it is one. -/
def SdatItem.byte? : SdatItem → Option Byte
  | .byte b => some b
  | .word _ => none

/-- The item as a 32-bit item, where it is one. -/
def SdatItem.word? : SdatItem → Option Word
  | .byte _ => none
  | .word w => some w

/-- Every field of every constructor is exactly as wide as its encoding field (R47), so every term is an instruction. -/
def Instr.wellFormed : Instr → Bool
  | .seed0 => true
  | .seedb _ => true
  | .seedw _ => true
  | .seede => true
  | .next => true
  | .discard _ => true

/-- R50, R51: the payload the host owes with the command is exactly `N` items of the command's width, and none with a
command that takes no payload. -/
def Instr.payloadFits (i : Instr) (sdat : List SdatItem) : Bool :=
  match i with
  | .seed0 => sdat.isEmpty
  | .seedb n => sdat.all (fun x => x.byte?.isSome) && sdat.length == n.toNat
  | .seedw n => sdat.all (fun x => x.word?.isSome) && sdat.length == n.toNat
  | .seede => sdat.isEmpty
  | .next => sdat.isEmpty
  | .discard _ => sdat.isEmpty

end Sys2Proof
end

