-- ==== Sys2Proof/Decode.lean ====
section
/-! DEFINITION. The command word (R47), its total decode (R56) and the encoder. The port carries one 72-bit word in one
indivisible transfer (R46, R47), so there is no byte stream, no instruction length and no byte order of fetch (R36). -/

namespace Sys2Proof

/-- Why a command word is reserved (R54). -/
inductive DecodeError where
  /-- `OP` is `0x00` or in `0x07` to `0xFF`. -/
  | reservedOpcode (op : BitVec 8)
  /-- `OP` is `0x01`, `0x04` or `0x05` and `N` is not zero. -/
  | countNotZero (op : BitVec 8) (n : BitVec 64)
  deriving DecidableEq, Repr

/-- R47: `OP = CW[71:64]`. -/
def opOf (cw : BitVec 72) : BitVec 8 := cw.extractLsb' 64 8

/-- R47: `N = CW[63:0]`. -/
def countOf (cw : BitVec 72) : BitVec 64 := cw.extractLsb' 0 64

/-- R54: a command word whose count must be zero. -/
def decodeNoCount (op : BitVec 8) (n : BitVec 64) (i : Instr) : Except DecodeError Instr :=
  if n = 0 then .ok i else .error (.countNotZero op n)

/-- R56: decoding is total on all 2^72 command words. -/
def decode (cw : BitVec 72) : Except DecodeError Instr :=
  let op := opOf cw
  let n := countOf cw
  if op = 0x01#8 then decodeNoCount op n .seed0
  else if op = 0x02#8 then .ok (.seedb n)
  else if op = 0x03#8 then .ok (.seedw n)
  else if op = 0x04#8 then decodeNoCount op n .seede
  else if op = 0x05#8 then decodeNoCount op n .next
  else if op = 0x06#8 then .ok (.discard n)
  else .error (.reservedOpcode op)

/-- The word numbered as spec/opcode_table.json numbers it: one 72-bit word, bit 0 its least significant bit. -/
def decodeTableWord (nbits w : Nat) : Option Instr :=
  match decode (BitVec.ofNat 72 (w % 2 ^ nbits)) with
  | .ok i => some i
  | .error _ => none

/-- R48: the opcode column. -/
def Instr.opcode : Instr → BitVec 8
  | .seed0 => 0x01#8
  | .seedb _ => 0x02#8
  | .seedw _ => 0x03#8
  | .seede => 0x04#8
  | .next => 0x05#8
  | .discard _ => 0x06#8

/-- R48, R49: the count column; 0 where "must be 0". -/
def Instr.count : Instr → BitVec 64
  | .seed0 => 0
  | .seedb n => n
  | .seedw n => n
  | .seede => 0
  | .next => 0
  | .discard n => n

/-- R47: the command word of a command, `OP` then `N`. -/
def encode (i : Instr) : BitVec 72 := i.opcode ++ i.count

/-- R56: one row of the match-and-mask form. -/
structure OpcodeRow where
  mnemonic : String
  mask     : BitVec 72
  pattern  : BitVec 72
  deriving DecidableEq, Repr

/-- R56: a word selects a row when `CW & mask = match`. -/
def OpcodeRow.selects (r : OpcodeRow) (cw : BitVec 72) : Bool := cw &&& r.mask == r.pattern

/-- R56, spec/opcode_table.json: the row of each command. -/
def Instr.row : Instr → OpcodeRow
  | .seed0 => ⟨"SEED0", 0xFFFFFFFFFFFFFFFFFF#72, 0x010000000000000000#72⟩
  | .seedb _ => ⟨"SEEDB", 0xFF0000000000000000#72, 0x020000000000000000#72⟩
  | .seedw _ => ⟨"SEEDW", 0xFF0000000000000000#72, 0x030000000000000000#72⟩
  | .seede => ⟨"SEEDE", 0xFFFFFFFFFFFFFFFFFF#72, 0x040000000000000000#72⟩
  | .next => ⟨"NEXT", 0xFFFFFFFFFFFFFFFFFF#72, 0x050000000000000000#72⟩
  | .discard _ => ⟨"DISCARD", 0xFF0000000000000000#72, 0x060000000000000000#72⟩

/-- R56: the whole match-and-mask table. -/
def opcodeTable : List OpcodeRow :=
  [Instr.seed0.row, (Instr.seedb 0).row, (Instr.seedw 0).row, Instr.seede.row, Instr.next.row, (Instr.discard 0).row]

/-- R58: the expansion of a pseudo-command. -/
def PseudoCommand.expand : PseudoCommand → Instr
  | .new => .seed0
  | .newBytes n => .seedb n
  | .newWords n => .seedw n
  | .newEntropy => .seede
  | .reseedBytes n => .seedb n
  | .reseedWords n => .seedw n
  | .reseedEntropy => .seede
  | .call => .next

end Sys2Proof
end

