-- ==== Sys2Proof/Machine/Operands.lean ====
section
/-! DEFINITION. The word and byte views of a store (R33, R34, R37), every way an index is formed (R35), the loop of the
pseudocode (R13) and the assembly of a payload into seed words (R37, R49 to R52). -/

namespace Sys2Proof

/-- R33: the word of the store named by an index. -/
def Bank.read {n : Nat} (t : Bank n) (i : BitVec n) : Word := t[i.toNat]'i.isLt

/-- R33: the store with one word replaced. -/
def Bank.write {n : Nat} (t : Bank n) (i : BitVec n) (v : Word) : Bank n := t.set i.toNat v i.isLt

/-- A store that holds one word everywhere. -/
def Bank.fill (n : Nat) (v : Word) : Bank n := Vector.replicate (2 ^ n) v

namespace Machine

/-- The loop of R13, by recursion on the number of passes. -/
def passes {σ : Type} : Nat → (Nat → σ → σ) → σ → σ
  | 0, _, s => s
  | n + 1, body, s => body n (passes n body s)

/-- R13: `for i in 0..n-1`, the body's effects strictly in ascending order. It is sealed (irreducible) so that no unification
runs a loop by accident; its two equations and its induction are in Laws/Banks.lean, and the kernel evaluates it. -/
@[irreducible] def forRange {σ : Type} (n : Nat) (body : Nat → σ → σ) (s : σ) : σ := passes n body s

/-- R21, R32: the canonical form of either memory, exactly 256 words. A `Bank 8` has no other: its length is in its type, every
index holds a word, so equal memories are equal data. -/
def Memory.wf (t : Bank 8) : Bool := t.toList.length == Config.randsiz

/-! Addressing modes (R35). -/

/-- R35 paired: `(i + 128) mod 256`; the addition of 8-bit indices is the reduction mod 256. -/
def pairedIndex (i : BitVec 8) : BitVec 8 := i + Config.half

/-- R35 indirect, R34: the index `v[9:2]`. -/
def indIndex (v : Word) : BitVec 8 := v.extractLsb' 2 8

/-- R35 grouped: `8g + j`. -/
def groupIndex (g j : Nat) : BitVec 8 := BitVec.ofNat 8 (Config.group * g + j)

/-- R35 cursor: the word of `RSL` that `CNT` selects, `CNT` then being in 0 to 255. -/
def cursorIndex (c : Cursor) : BitVec 8 := BitVec.ofNat 8 c.val

/-- R35 byte overlay: the word that byte offset `k` of the byte view lies in. -/
def byteWordIndex (k : Nat) : BitVec 8 := BitVec.ofNat 8 (k / 4)

/-- R37: the bit position, within its word, of the byte lane at byte offset `k`. -/
def laneShift (o : ByteOrder) (k : Nat) : Nat :=
  match o with
  | .little => 8 * (k % 4)
  | .big => 24 - 8 * (k % 4)

/-! The byte view (R34, R37). -/

/-- R13, R34: one byte of the byte view. -/
def memReadByte (o : ByteOrder) (t : Bank 8) (off : Nat) : Byte :=
  (t.read (byteWordIndex off)).extractLsb' (laneShift o off) 8

/-- R13 `MemRead(addr, 4)`: the four bytes at `off`, put together in the word representation order. -/
def memReadWord (o : ByteOrder) (t : Bank 8) (off : Nat) : Word :=
  let lane := fun k => (memReadByte o t (off + k)).setWidth 32 <<< laneShift o (off + k)
  lane 0 ||| lane 1 ||| lane 2 ||| lane 3

/-- R13 `MemWrite(addr, 1, v)`: one byte lane replaced. -/
def memWriteByte (o : ByteOrder) (t : Bank 8) (off : Nat) (b : Byte) : Bank 8 :=
  let j := byteWordIndex off
  let s := laneShift o off
  t.write j ((t.read j &&& ~~~(0xFF#32 <<< s)) ||| (b.setWidth 32 <<< s))

/-! Seed buffers (R59): the 256 words a seed command fills. -/

/-- R60 to R62: the zero-filled buffer. -/
def zeroBuffer : Bank 8 := Bank.fill 8 0

/-- R61: the byte of the seed at offset `k` added into its lane, which is zero before. -/
def overlayByte (o : ByteOrder) (k : Nat) (b : Byte) (t : Bank 8) : Bank 8 :=
  let j := byteWordIndex k
  t.write j (t.read j + (b.setWidth 32 <<< laneShift o k))

/-- R61: the loop over the used bytes, from offset `k` on. -/
def overlayBytes (o : ByteOrder) : List Byte → Nat → Bank 8 → Bank 8
  | [], _, t => t
  | b :: bs, k, t => overlayBytes o bs (k + 1) (overlayByte o k b t)

/-- R61: the seed buffer of a byte seed, from the bytes that are used (at most 1024). -/
def byteBuffer (bytes : List Byte) : Bank 8 := overlayBytes Config.seedByteOrder bytes 0 zeroBuffer

/-- R62, R63: the loop `RSL[k] <- w[k]`, from word `k` on. -/
def copyWords : List Word → Nat → Bank 8 → Bank 8
  | [], _, t => t
  | w :: ws, k, t => copyWords ws (k + 1) (t.write (BitVec.ofNat 8 k) w)

/-- R62: the seed buffer of a word seed, from the words that are used (at most 256). -/
def wordBuffer (words : List Word) : Bank 8 := copyWords words 0 zeroBuffer

/-! The payload (R50, R51). -/

/-- The items read as items of one width; none where an item has the other width (I5). -/
def readItems {α : Type} (pick : SdatItem → Option α) : List SdatItem → Option (List α)
  | [] => some []
  | x :: xs =>
    match pick x, readItems pick xs with
    | some a, some as => some (a :: as)
    | _, _ => none

/-- `m` consecutive free values, from number `start` on. -/
def freeItems {α : Type} (free : Nat → α) (start m : Nat) : List α := (List.range m).map (fun k => free (start + k))

/-- What the seed-data port gives a command. -/
inductive Supply (α : Type) where
  /-- The items the command uses, in order. -/
  | whole (items : List α)
  /-- Fewer items than the command waits for, and no more will come (R108, I3). -/
  | starved
  /-- More items than `N`, or items of the wrong width: a protocol violation by the host (R50, I5). -/
  | violation
  deriving DecidableEq, Repr

/-- R50, R51: the `n` items of a payload, of which the first `cap` are used and the rest dropped. `listed` are the items the
host has listed, `live` says that it goes on sending, and the items past the listed ones are then free values. -/
def supply {α : Type} (listed : Option (List α)) (live : Bool) (free : Nat → α) (start n cap : Nat) : Supply α :=
  match listed with
  | none => .violation
  | some l =>
    if n < l.length then .violation
    else if l.length = n ∨ live = true then
      .whole (l.take cap ++ freeItems free (start + l.length) (min n cap - l.length))
    else .starved

/-- R52: the 256 answers of the entropy source, the listed ones first; none where the source stops before the last (R108). -/
def entropyWords (listed : List Word) (live : Bool) (start : Nat) : Option (List Word) :=
  if Config.randsiz ≤ listed.length ∨ live = true then
    some (listed.take Config.randsiz ++
      freeItems Config.entropyWord (start + listed.length) (Config.randsiz - listed.length))
  else none

end Machine
end Sys2Proof
end

