-- ==== Sys2Proof/Machine/Flags.lean ====
section
/-! DEFINITION. The block has no flag, condition code or predicate (R27): no operation records carry, overflow, zero or sign,
and no arithmetic condition is an error (R9, R87). The only status is the one bit of a response (R53), an output of one
command that is not stored in the generator. -/

namespace Sys2Proof.Machine

/-- R53: the status of a response. -/
inductive Status where
  | ok
  | err
  deriving DecidableEq, Repr

/-- R53: `ST`, 0 = `OK`, 1 = `ERR`. -/
def Status.bit : Status → BitVec 1
  | .ok => 0#1
  | .err => 1#1

/-- R53: one 33-bit response, `RSP[32] = ST`, `RSP[31:0] = DATA`. -/
def responseWord (st : Status) (data : Word) : BitVec 33 := st.bit ++ data

/-- R53: the `ST` field of a response. -/
def responseStatus (r : BitVec 33) : BitVec 1 := r.extractLsb' 32 1

/-- R53: the `DATA` field of a response. -/
def responseData (r : BitVec 33) : Word := r.extractLsb' 0 32

end Sys2Proof.Machine
end

