-- ==== Sys2Proof/Machine/Gen.lean ====
section
/-! DEFINITION. The architectural state of the block: the six items of R15 to R20 "and nothing else". -/

namespace Sys2Proof.Machine

/-- The generator state (R15 to R20). The mixing accumulators, the regeneration locals and the sequencing counters are not
state (R23 to R25). Two generator states are equal exactly when these six fields are (R22), and a copy is a copy of the
value (R31). -/
structure Gen where
  /-- R15: `RSL`, the current block of output words, consumed back to front. -/
  rsl : Bank 8
  /-- R16: `MM`, the permutation table. -/
  mm  : Bank 8
  /-- R17: `AA`, accumulator-a. -/
  aa  : Word
  /-- R18: `BB`, accumulator-b. -/
  bb  : Word
  /-- R19, R96: `CC`, the count of regeneration cycles since the last seeding, mod 2^32. -/
  cc  : Word
  /-- R20, R28: `CNT`, the words of `RSL` not yet returned. -/
  cnt : Cursor
  deriving DecidableEq, Repr

/-- R22: the equality predicate on generator states, field for field on the state as it stands. -/
def Gen.equal (g h : Gen) : Bool := decide (g = h)

/-- What stands in the block before its first reset. The document has no such state (R21) and no rule reads it: reset
overwrites every field (R30, R99; log entry 14). -/
def Gen.beforeReset : Gen :=
  { rsl := zeroBuffer, mm := zeroBuffer, aa := 0, bb := 0, cc := 0, cnt := 0 }

end Sys2Proof.Machine
end

