-- ==== Sys2Proof/Machine/Mixer.lean ====
section
/-! DEFINITION. `MIX`, the state mixer (R71, R72), on the eight transient accumulators `P` (R23). Indices of `P` are 3-bit
numbers, so that their addition is the "mod 8" of R72.

PRESUMED, unsafe (log entry 2): the pattern of R72 is marked by the spec as general knowledge (G1), not the document's. -/

namespace Sys2Proof.Machine

/-- R72: the shift of step `k`, left for even `k` and right for odd `k`. -/
def mixShift (k : BitVec 3) (v : Word) : Word :=
  let amount := Config.mixShifts.get k.toFin
  if k.toNat % 2 = 0 then v <<< amount else v >>> amount

/-- R72: one of the eight steps, its three assignments in order, each reading what the one before it wrote (R103). -/
def mixStep (k : BitVec 3) (p : Bank 3) : Bank 3 :=
  let p := p.write k (p.read k ^^^ mixShift k (p.read (k + 1)))
  let p := p.write (k + 3) (p.read (k + 3) + p.read k)
  p.write (k + 1) (p.read (k + 1) + p.read (k + 2))

/-- R72: `MIX`. -/
def mix (p : Bank 3) : Bank 3 := forRange 8 (fun k => mixStep (BitVec.ofNat 3 k)) p

end Sys2Proof.Machine
end

