-- ==== Sys2Proof/Machine/Regen.lean ====
section
/-! DEFINITION. `IND`, `RNGSTEP` and `REGEN`, the regeneration cycle (R75 to R81). -/

namespace Sys2Proof.Machine

/-- The transient locals of one cycle (R24) with the two stores it works on in place (R105). -/
structure RegenLocals where
  a   : Word
  b   : Word
  mm  : Bank 8
  rsl : Bank 8
  deriving DecidableEq, Repr

/-- R75: the indirect lookup, in the word-index form `MM[v[9:2]]`; it reads `MM` as it stands when evaluated. -/
def ind (mm : Bank 8) (v : Word) : Word := mm.read (indIndex v)

/-- R77: `sh(i, a)`. -/
def stepShift (i : BitVec 8) (a : Word) : Word :=
  match i.toNat % 4 with
  | 0 => a <<< 13
  | 1 => a >>> 6
  | 2 => a <<< 2
  | _ => a >>> 16

/-- R77: one rng-step. The second lookup reads the `MM` just written (R80, R104).
PRESUMED, unsafe (log entry 3): the grouping of the `a` update is general knowledge (G2). -/
def rngStep (i : BitVec 8) (c : RegenLocals) : RegenLocals :=
  let x := c.mm.read i
  let a := (c.a ^^^ stepShift i c.a) + c.mm.read (pairedIndex i)
  let y := ind c.mm x + a + c.b
  let mm := c.mm.write i y
  let b := ind mm (y >>> Config.randsizl) + x
  { a := a, b := b, mm := mm, rsl := c.rsl.write i b }

/-- R78: the first `n` rng-steps, in ascending order of the index. -/
def rngSteps (n : Nat) (c : RegenLocals) : RegenLocals := forRange n (fun i => rngStep (BitVec.ofNat 8 i)) c

/-- R76: the prologue; the `CC` just written is the one added to `BB`. -/
def regenStart (g : Gen) : RegenLocals :=
  { a := g.aa, b := g.bb + (g.cc + 1), mm := g.mm, rsl := g.rsl }

/-- R76 to R81: one regeneration cycle. It leaves `CNT` alone. -/
def regen (g : Gen) : Gen :=
  let c := rngSteps Config.randsiz (regenStart g)
  { rsl := c.rsl, mm := c.mm, aa := c.a, bb := c.b, cc := g.cc + 1, cnt := g.cnt }

end Sys2Proof.Machine
end

