-- ==== Sys2Proof/Machine/Randinit.lean ====
section
/-! DEFINITION. `RANDINIT` (R64 to R70) and what a seed command and reset do to the generator (R59, R99). -/

namespace Sys2Proof.Machine

/-- R67, R68: what the two absorption passes carry from group to group, `P` and `MM`. -/
structure Absorb where
  p  : Bank 3
  mm : Bank 8
  deriving DecidableEq, Repr

/-- R65: the eight accumulators loaded with the constant. -/
def goldenMixers : Bank 3 := Bank.fill 3 Config.golden

/-- R66: step 2, four times `MIX`. -/
def scramble (p : Bank 3) : Bank 3 := forRange Config.scrambleRounds (fun _ => mix) p

/-- R67, R68: `for j in 0..7: P[j] <- P[j] + src[8g + j]`. -/
def addGroup (src : Bank 8) (g : Nat) (p : Bank 3) : Bank 3 :=
  forRange Config.group
    (fun j p => p.write (BitVec.ofNat 3 j) (p.read (BitVec.ofNat 3 j) + src.read (groupIndex g j))) p

/-- R67, R68: `for j in 0..7: MM[8g + j] <- P[j]`. -/
def storeGroup (p : Bank 3) (g : Nat) (mm : Bank 8) : Bank 8 :=
  forRange Config.group (fun j mm => mm.write (groupIndex g j) (p.read (BitVec.ofNat 3 j))) mm

/-- R67, R68: one group: eight words of the source added, `MIX`, the eight accumulators stored. -/
def absorbGroup (src : Bank 8) (g : Nat) (s : Absorb) : Absorb :=
  let p := mix (addGroup src g s.p)
  { p := p, mm := storeGroup p g s.mm }

/-- R67: step 3, the source is the seed buffer. -/
def absorbSeed (seed : Bank 8) (s : Absorb) : Absorb := forRange Config.groups (absorbGroup seed) s

/-- R68: step 4, the source is `MM` itself as it stands. -/
def absorbTable (s : Absorb) : Absorb := forRange Config.groups (fun g s => absorbGroup s.mm g s) s

/-- R65 to R68: the table after steps 1 to 4. `MM` is not cleared first. -/
def seededTable (seed mm : Bank 8) : Bank 8 :=
  (absorbTable (absorbSeed seed { p := scramble goldenMixers, mm := mm })).mm

/-- R64 to R70: `RANDINIT`; the seed is in `RSL`. -/
def randinit (g : Gen) : Gen :=
  let cleared := { g with mm := seededTable g.rsl g.mm, aa := 0, bb := 0, cc := 0 }
  { regen cleared with cnt := 256 }

/-- R59: the seed buffer, which is `RSL` itself, filled and `RANDINIT` run on it. -/
def seedWith (buffer : Bank 8) (g : Gen) : Gen := randinit { g with rsl := buffer }

/-- R99: reset performs the zero seed. -/
def resetGen (g : Gen) : Gen := seedWith zeroBuffer g

end Sys2Proof.Machine
end

