-- ==== Sys2Proof/Machine/State.lean ====
section
/-! DEFINITION. The machine's state: the generator (R15 to R20) and what stands on the ports of R46, with the core's one
observable sequencing fact, that a command waits for items that never come (R108). Everything is plain data. -/

namespace Sys2Proof.Machine

structure State where
  /-- R15 to R20: the six items of architectural state. -/
  gen       : Gen
  /-- R108, I3: the command in progress that waits for payload or entropy; none while the core is idle (R25, R46). -/
  running   : Option Instr
  /-- R46 `CMD`: the commands the host has issued and the core has not taken, in issue order. -/
  cmd       : List Request
  /-- R46 `SDAT`: the items standing on the seed-data port, item 0 first (R50, R51). -/
  sdat      : List SdatItem
  /-- R108 (1): whether the host goes on sending when the items on `SDAT` run out; the items it then sends are free values. -/
  sdatLive  : Bool
  /-- The model's own: how many items the core has taken from `SDAT`, the number of the next free item. -/
  sdatTaken : Nat
  /-- R46 `ENT`: the answers the entropy source will give to the next requests, in order (R52). -/
  ent       : List Word
  /-- R108 (2): whether the source goes on answering when `ent` runs out; those answers are free values (I2). -/
  entLive   : Bool
  /-- The model's own: how many answers the core has received on `ENT`, the number of the next free answer. -/
  entTaken  : Nat
  /-- R46, R53 `RSP`: the responses given so far; the k-th answers the k-th command. -/
  rsp       : List (BitVec 33)
  /-- R46 `rst`: for each coming step, whether a reset event arrives at it; none after the list's end (R91, R101). -/
  rst       : List Bool
  deriving DecidableEq, Repr

/-- The faults a step can stop with. There is none: "No operation the document defines can fail" (R87), no memory access can
fault (R38) and no trap exists (R92). A command that waits for ever is a state of its own (`State.running`), not a fault
(log entry 13). -/
inductive Fault where
  deriving DecidableEq, Repr

/-- The refusals a step can stop with. -/
inductive Refusal where
  /-- Raised only by an arm of `exec` that has no meaning; no arm of this model does. Safe. -/
  | notModelled (mnemonic : String)
  /-- Raised by `SEEDB` and `SEEDW` when the host has sent more items than `N`, or items of the wrong width: "a protocol
  violation by the host, outside this spec" (R50), "Treat as refuse if a model must say something" (I5; log entry 7). Safe. -/
  | payloadViolation
  deriving DecidableEq, Repr

/-- R99, R100: the machine right after reset: the zero-seeded generator, the core idle, nothing on any port. The environment's
two flags say that the host and the source meet their duties (R108); DESIGN CHOICE, log entries 5 and 6. -/
def State.reset : State :=
  { gen := resetGen Gen.beforeReset, running := none, cmd := [], sdat := [], sdatLive := true, sdatTaken := 0,
    ent := [], entLive := true, entTaken := 0, rsp := [], rst := [] }

end Sys2Proof.Machine
end

