-- ==== Sys2Proof/Machine/Ops.lean ====
section
/-! DEFINITION. The shared operations over the machine: the response (R53), the one exceptional outcome (R89), waiting
(R108), the payload and the entropy exchange (R50 to R52), taking a command (R46), reset (R99, R101), and the cursor
movement that `NEXT` and `DISCARD` share (R82). -/

namespace Sys2Proof.Machine

/-- The outcome of one step or of one command. -/
abbrev Result := Host.Outcome State Fault Refusal

/-- R53: `respond(status, data)`, the one response of a command. -/
def State.respond (st : Status) (data : Word) (s : State) : State :=
  { s with rsp := s.rsp ++ [responseWord st data] }

/-- R89: `raise IllegalCommand(CW)`, the one exceptional outcome: `respond(ERR, 0)`, nothing else. There is nothing to save,
no handler and no return (R92, R93). -/
def State.raiseIllegal (s : State) : State := s.respond .err 0

/-- R108, D12, I3: the core has taken what stands on the port and waits for the rest, for ever (log entry 8). -/
def State.await (i : Instr) (s : State) : State := { s with running := some i }

/-- The items standing on `SDAT` taken by the core. -/
def State.takeListedSdat (s : State) : State :=
  { s with sdat := [], sdatTaken := s.sdatTaken + s.sdat.length }

/-- The listed answers of the source received by the core. -/
def State.takeListedEnt (s : State) : State :=
  { s with ent := [], entTaken := s.entTaken + s.ent.length }

/-- R50, R51: the core consumes all `n` items of the payload. -/
def State.consumeSdat (n : Nat) (s : State) : State :=
  { s with sdat := [], sdatTaken := s.sdatTaken + n }

/-- R52: exactly 256 requests, each answered. -/
def State.consumeEnt (s : State) : State :=
  { s with ent := s.ent.drop Config.randsiz, entTaken := s.entTaken + Config.randsiz }

/-- R59: the seed buffer filled, `RANDINIT` run, `respond(OK, 0)`. -/
def State.seedAndRespond (buffer : Bank 8) (s : State) : State :=
  { s with gen := seedWith buffer s.gen }.respond .ok 0

/-- R61, R62: a seed command with a payload: the used items become the seed buffer; a short payload is waited for (R108); a
payload no host may send is refused (I5). -/
def seedFromPayload {α : Type} (i : Instr) (n : Nat) (buffer : List α → Bank 8) (items : Supply α) (s : State) : Result :=
  match items with
  | .whole used => .next ((s.consumeSdat n).seedAndRespond (buffer used))
  | .starved => .next (s.takeListedSdat.await i)
  | .violation => .refused .payloadViolation

/-- R63: a seed command whose 256 words come from the entropy source; a source that stops is waited for (R108, D12). No
zero-fill: the words are laid over `RSL`. -/
def seedFromEntropy (i : Instr) (answers : Option (List Word)) (s : State) : Result :=
  match answers with
  | some words => .next (s.consumeEnt.seedAndRespond (copyWords words 0 s.gen.rsl))
  | none => .next (s.takeListedEnt.await i)

/-- R82: the cursor after one extraction that needs no regeneration. -/
def Cursor.pred (c : Cursor) : Cursor := ⟨c.val - 1, by omega⟩

/-- R82, R85: what one `NEXT`, and one iteration of `DISCARD`, does to the generator. -/
def Gen.advance (g : Gen) : Gen :=
  if g.cnt = 0 then { regen g with cnt := 255 } else { g with cnt := Cursor.pred g.cnt }

/-- R82: the word the cursor stands at, `RSL[CNT]`. -/
def Gen.output (g : Gen) : Word := g.rsl.read (cursorIndex g.cnt)

/-- R85: `n` times what a `NEXT` does to the state. -/
def Gen.advances : Nat → Gen → Gen
  | 0, g => g
  | n + 1, g => Gen.advances n g.advance

/-- R46: the core takes the command at the head of `CMD`; the payload sent with it now stands on `SDAT`. -/
def State.accept (r : Request) (later : List Request) (s : State) : State :=
  { s with cmd := later, sdat := s.sdat ++ r.sdat }

/-- Whether a reset event arrives at this step. -/
def State.resetDue (s : State) : Bool :=
  match s.rst with
  | [] => false
  | now :: _ => now

/-- The step's place in the reset schedule used up. -/
def State.tick (s : State) : State := { s with rst := s.rst.tail }

/-- R99, R101: a reset event. It ends a command in progress without a response, forgets the items standing on `SDAT`, and
establishes the reset state of the generator; the core is then idle (log entry 10). DESIGN CHOICE, log entry 17: the spec does not
say whether a source that stopped answers again after a reset, nor whether a host that stopped sends again; `entLive`, `ent` and
`sdatLive` are left as they are, so a source or a host that stopped stays stopped. -/
def State.performReset (s : State) : State :=
  { s with gen := resetGen s.gen, running := none, sdat := [] }

/-- A command word put where the core takes its next command, the core idle, no reset event at the next step, nothing left on
`SDAT`, and the host and the source ready to send what the command asks for (log entry 9). -/
def State.withCommand (cw : BitVec 72) (s : State) : State :=
  { s with
    running := none
    cmd := { cw := cw, sdat := [] } :: s.cmd
    sdat := []
    sdatLive := true
    entLive := true
    rst := false :: s.rst.tail }

end Sys2Proof.Machine
end

