-- ==== Sys2Proof/Machine/Extract.lean ====
section
/-! DEFINITION. `NEXT` and `DISCARD`, the regeneration-cycle controller (R82 to R86). -/

namespace Sys2Proof.Machine

/-- R82: `NEXT`. The word returned is read after the cursor update and after any regeneration (R107). -/
def execNext (s : State) : Result :=
  .next ({ s with gen := s.gen.advance }.respond .ok s.gen.advance.output)

/-- R85: `DISCARD n`, exactly `n` times what `NEXT` does to the state, no word returned. -/
def execDiscard (n : BitVec 64) (s : State) : Result :=
  .next ({ s with gen := s.gen.advances n.toNat }.respond .ok 0)

/-- R58: the loop a host could issue instead, `n` times `NEXT`. Statements compare `DISCARD` with it; no command runs it. -/
def nextLoop : Nat → State → Result
  | 0, s => .next s
  | n + 1, s =>
    match execNext s with
    | .next t => nextLoop n t
    | .fault f => .fault f
    | .refused r => .refused r

end Sys2Proof.Machine
end

