-- ==== Sys2Proof/Machine/Seed.lean ====
section
/-! DEFINITION. The four seed commands (R59 to R63). -/

namespace Sys2Proof.Machine

/-- R60: `SEED0`. -/
def execSeed0 (s : State) : Result := .next (s.seedAndRespond zeroBuffer)

/-- R61: `SEEDB`, `min(L, 1024)` bytes of the payload used. -/
def execSeedb (n : BitVec 64) (s : State) : Result :=
  seedFromPayload (.seedb n) n.toNat byteBuffer
    (supply (readItems SdatItem.byte? s.sdat) s.sdatLive Config.payloadByte s.sdatTaken n.toNat Config.seedBytesMax) s

/-- R62: `SEEDW`, `min(N, 256)` words of the payload used. -/
def execSeedw (n : BitVec 64) (s : State) : Result :=
  seedFromPayload (.seedw n) n.toNat wordBuffer
    (supply (readItems SdatItem.word? s.sdat) s.sdatLive Config.payloadWord s.sdatTaken n.toNat Config.randsiz) s

/-- R63: `SEEDE`. -/
def execSeede (s : State) : Result := seedFromEntropy .seede (entropyWords s.ent s.entLive s.entTaken) s

end Sys2Proof.Machine
end

