-- ==== Sys2Proof/Machine/Dispatch.lean ====
section
/-! DEFINITION. One arm per command (R48). -/

namespace Sys2Proof.Machine

def exec (i : Instr) (s : State) : Host.Outcome State Fault Refusal :=
  match i with
  | .seed0 => Sys2Proof.Machine.execSeed0 s
  | .seedb n => Sys2Proof.Machine.execSeedb n s
  | .seedw n => Sys2Proof.Machine.execSeedw n s
  | .seede => Sys2Proof.Machine.execSeede s
  | .next => Sys2Proof.Machine.execNext s
  | .discard n => Sys2Proof.Machine.execDiscard n s

end Sys2Proof.Machine
end

