-- ==== Sys2Proof/Machine/Serve.lean ====
section
/-! DEFINITION. What the core does at one step (R7, R46, R91): a reset event, or one whole command, or nothing while it waits or
no command stands on `CMD`. -/

namespace Sys2Proof.Machine

/-- R46, R56, R89: the command at the head of `CMD` taken, decoded before any state is touched, and run or answered `ERR`. A
core that waits takes no command (R108); an idle core without one keeps its state (R98). -/
def serve (s : State) : Result :=
  match s.running, s.cmd with
  | some _, _ => .next s
  | none, [] => .next s
  | none, r :: later =>
    match decode r.cw with
    | .ok i => exec i (s.accept r later)
    | .error _ => .next (s.accept r later).raiseIllegal

/-- R91: reset has priority over everything. -/
def resetOrServe (s : State) : Result :=
  if s.resetDue = true then .next s.tick.performReset else serve s.tick

end Sys2Proof.Machine
end

