-- ==== Sys2Proof/Machine/Step.lean ====
section
/-! DEFINITION. One step of the machine (R7), and the placing of a command word where the next step takes it. -/

namespace Sys2Proof.Machine

/-- R7: one step is one whole command, or a reset event (R101), or an idle or waiting core. -/
def step (s : State) : Host.Outcome State Fault Refusal := resetOrServe s

/-- The machine whose next step takes the command word `w` of `nbits` bits, numbered as spec/opcode_table.json numbers it. -/
def State.withFetchWord (s : State) (nbits w : Nat) : State := s.withCommand (BitVec.ofNat 72 (w % 2 ^ nbits))

end Sys2Proof.Machine
end

