-- ==== Sys2Proof/Safety.lean ====
section
/-! DEFINITION. What counts as a safe run: the invariants of reachable states (R18, R20, R21, R108) and a host that keeps the
payload protocol (R50, R51, R108 (1)). -/

namespace Sys2Proof.Machine

/-- R18: `BB = RSL[255]` after any `REGEN`, and no other operation writes either; R20 with R19: `CNT = 256` only right after a
seed command or reset, where `CC = 1`. -/
abbrev Gen.Inv (g : Gen) : Prop := g.bb = g.rsl.read 255 ∧ (g.cnt = 256 → g.cc = 1)

/-- R108: the only commands that can wait are the three that take something from a port. -/
def waitsForPort : Option Instr → Bool
  | none => true
  | some (.seedb _) => true
  | some (.seedw _) => true
  | some .seede => true
  | some .seed0 => false
  | some .next => false
  | some (.discard _) => false

/-- The invariant every step keeps. -/
abbrev State.Inv (s : State) : Prop := s.gen.Inv ∧ waitsForPort s.running = true

/-- R50, R51: a request whose payload is exactly what its command word announces. A reserved word announces none (R54). -/
def Request.honoured (r : Request) : Bool :=
  match decode r.cw with
  | .ok i => i.payloadFits r.sdat
  | .error _ => r.sdat.isEmpty

/-- R108 (1): the host keeps its duty in everything it has issued. -/
abbrev State.Orderly (s : State) : Prop := s.sdat = [] ∧ s.cmd.all Request.honoured = true

end Sys2Proof.Machine
end

