-- ==== Sys2Proof/Laws/Banks.lean ====
section
/-! SUPPORT. The laws of the two indexed operations on a store, of the pseudocode's loop, and of the canonical form of the
memories. Later proofs cite these and unfold neither operation. -/

namespace Sys2Proof

variable {n : Nat}

@[simp] theorem Bank.read_write_same (t : Bank n) (i : BitVec n) (v : Word) : (t.write i v).read i = v := by
  simp [Bank.read, Bank.write]

theorem Bank.read_write_ne (t : Bank n) {i j : BitVec n} (v : Word) (h : i ≠ j) : (t.write i v).read j = t.read j := by
  have hne : i.toNat ≠ j.toNat := fun e => h (BitVec.eq_of_toNat_eq e)
  simp [Bank.read, Bank.write, hne]

theorem Bank.read_write (t : Bank n) (i j : BitVec n) (v : Word) :
    (t.write i v).read j = if i = j then v else t.read j := by
  by_cases h : i = j
  · subst h; simp
  · rw [Bank.read_write_ne t v h, if_neg h]

@[simp] theorem Bank.read_fill (v : Word) (i : BitVec n) : (Bank.fill n v).read i = v := by
  simp [Bank.read, Bank.fill]

/-- R33: a store is the words its indices name. -/
theorem Bank.ext_read {t u : Bank n} (h : ∀ i : BitVec n, t.read i = u.read i) : t = u := by
  apply Vector.ext
  intro i hi
  have := h (BitVec.ofNat n i)
  simpa [Bank.read, Nat.mod_eq_of_lt hi] using this

@[simp] theorem zeroBuffer_read (i : BitVec 8) : Machine.zeroBuffer.read i = 0 := Bank.read_fill 0 i

namespace Machine

@[simp] theorem forRange_zero {σ : Type} (body : Nat → σ → σ) (s : σ) : forRange 0 body s = s := by
  unfold forRange; rfl

theorem forRange_succ {σ : Type} (k : Nat) (body : Nat → σ → σ) (s : σ) :
    forRange (k + 1) body s = body k (forRange k body s) := by
  unfold forRange; rfl

/-- A loop keeps what each pass keeps and carries what each pass carries on. -/
theorem forRange_induct {σ : Type} {body : Nat → σ → σ} {s : σ} (P : Nat → σ → Prop) (h0 : P 0 s) :
    ∀ k, (∀ j, j < k → ∀ u, P j u → P (j + 1) (body j u)) → P k (forRange k body s)
  | 0, _ => by rw [forRange_zero]; exact h0
  | k + 1, hs => by
    rw [forRange_succ]
    exact hs k (Nat.lt_succ_self k) _ (forRange_induct P h0 k (fun j hj => hs j (Nat.lt_succ_of_lt hj)))

/-- Two loops related pass by pass are related at the end. -/
theorem forRange_rel {σ τ : Type} {f : Nat → σ → σ} {g : Nat → τ → τ} (R : Nat → σ → τ → Prop) {s : σ} {t : τ} (h0 : R 0 s t) :
    ∀ k, (∀ j, j < k → ∀ u v, R j u v → R (j + 1) (f j u) (g j v)) → R k (forRange k f s) (forRange k g t)
  | 0, _ => by rw [forRange_zero, forRange_zero]; exact h0
  | k + 1, hs => by
    rw [forRange_succ, forRange_succ]
    exact hs k (Nat.lt_succ_self k) _ _ (forRange_rel R h0 k (fun j hj => hs j (Nat.lt_succ_of_lt hj)))

/-- R21: every memory has the canonical form, whatever operation made it; `State.reset`'s two memories among them. -/
theorem Memory.wf_all (t : Bank 8) : Memory.wf t = true := by
  simp [Memory.wf, Config.randsiz]

theorem Memory.wf_write (t : Bank 8) (i : BitVec 8) (v : Word) : Memory.wf (t.write i v) = Memory.wf t := by
  rw [Memory.wf_all, Memory.wf_all]

theorem Memory.wf_regen (g : Gen) : Memory.wf (regen g).mm = true ∧ Memory.wf (regen g).rsl = true :=
  ⟨Memory.wf_all _, Memory.wf_all _⟩

theorem Memory.wf_reset : Memory.wf State.reset.gen.mm = true ∧ Memory.wf State.reset.gen.rsl = true :=
  ⟨Memory.wf_all _, Memory.wf_all _⟩

end Machine
end Sys2Proof
end

