-- ==== Sys2Proof/Laws/State.lean ====
section
/-! SUPPORT. One lemma per field per update of the state, and per field of the generator updates, so that no later proof unfolds
a record update. -/

namespace Sys2Proof.Machine

@[simp] theorem State.respond_gen (st : Status) (data : Word) (s : State) : (s.respond st data).gen = s.gen := rfl
@[simp] theorem State.respond_running (st : Status) (data : Word) (s : State) : (s.respond st data).running = s.running := rfl
@[simp] theorem State.respond_cmd (st : Status) (data : Word) (s : State) : (s.respond st data).cmd = s.cmd := rfl
@[simp] theorem State.respond_sdat (st : Status) (data : Word) (s : State) : (s.respond st data).sdat = s.sdat := rfl
@[simp] theorem State.respond_sdatLive (st : Status) (data : Word) (s : State) : (s.respond st data).sdatLive = s.sdatLive := rfl
@[simp] theorem State.respond_sdatTaken (st : Status) (data : Word) (s : State) : (s.respond st data).sdatTaken = s.sdatTaken := rfl
@[simp] theorem State.respond_ent (st : Status) (data : Word) (s : State) : (s.respond st data).ent = s.ent := rfl
@[simp] theorem State.respond_entLive (st : Status) (data : Word) (s : State) : (s.respond st data).entLive = s.entLive := rfl
@[simp] theorem State.respond_entTaken (st : Status) (data : Word) (s : State) : (s.respond st data).entTaken = s.entTaken := rfl
@[simp] theorem State.respond_rsp (st : Status) (data : Word) (s : State) : (s.respond st data).rsp = s.rsp ++ [responseWord st data] := rfl
@[simp] theorem State.respond_rst (st : Status) (data : Word) (s : State) : (s.respond st data).rst = s.rst := rfl

@[simp] theorem State.raiseIllegal_gen (s : State) : (s.raiseIllegal).gen = s.gen := rfl
@[simp] theorem State.raiseIllegal_running (s : State) : (s.raiseIllegal).running = s.running := rfl
@[simp] theorem State.raiseIllegal_cmd (s : State) : (s.raiseIllegal).cmd = s.cmd := rfl
@[simp] theorem State.raiseIllegal_sdat (s : State) : (s.raiseIllegal).sdat = s.sdat := rfl
@[simp] theorem State.raiseIllegal_sdatLive (s : State) : (s.raiseIllegal).sdatLive = s.sdatLive := rfl
@[simp] theorem State.raiseIllegal_sdatTaken (s : State) : (s.raiseIllegal).sdatTaken = s.sdatTaken := rfl
@[simp] theorem State.raiseIllegal_ent (s : State) : (s.raiseIllegal).ent = s.ent := rfl
@[simp] theorem State.raiseIllegal_entLive (s : State) : (s.raiseIllegal).entLive = s.entLive := rfl
@[simp] theorem State.raiseIllegal_entTaken (s : State) : (s.raiseIllegal).entTaken = s.entTaken := rfl
@[simp] theorem State.raiseIllegal_rsp (s : State) : (s.raiseIllegal).rsp = s.rsp ++ [responseWord .err 0] := rfl
@[simp] theorem State.raiseIllegal_rst (s : State) : (s.raiseIllegal).rst = s.rst := rfl

@[simp] theorem State.await_gen (i : Instr) (s : State) : (s.await i).gen = s.gen := rfl
@[simp] theorem State.await_running (i : Instr) (s : State) : (s.await i).running = some i := rfl
@[simp] theorem State.await_cmd (i : Instr) (s : State) : (s.await i).cmd = s.cmd := rfl
@[simp] theorem State.await_sdat (i : Instr) (s : State) : (s.await i).sdat = s.sdat := rfl
@[simp] theorem State.await_sdatLive (i : Instr) (s : State) : (s.await i).sdatLive = s.sdatLive := rfl
@[simp] theorem State.await_sdatTaken (i : Instr) (s : State) : (s.await i).sdatTaken = s.sdatTaken := rfl
@[simp] theorem State.await_ent (i : Instr) (s : State) : (s.await i).ent = s.ent := rfl
@[simp] theorem State.await_entLive (i : Instr) (s : State) : (s.await i).entLive = s.entLive := rfl
@[simp] theorem State.await_entTaken (i : Instr) (s : State) : (s.await i).entTaken = s.entTaken := rfl
@[simp] theorem State.await_rsp (i : Instr) (s : State) : (s.await i).rsp = s.rsp := rfl
@[simp] theorem State.await_rst (i : Instr) (s : State) : (s.await i).rst = s.rst := rfl

@[simp] theorem State.takeListedSdat_gen (s : State) : (s.takeListedSdat).gen = s.gen := rfl
@[simp] theorem State.takeListedSdat_running (s : State) : (s.takeListedSdat).running = s.running := rfl
@[simp] theorem State.takeListedSdat_cmd (s : State) : (s.takeListedSdat).cmd = s.cmd := rfl
@[simp] theorem State.takeListedSdat_sdat (s : State) : (s.takeListedSdat).sdat = [] := rfl
@[simp] theorem State.takeListedSdat_sdatLive (s : State) : (s.takeListedSdat).sdatLive = s.sdatLive := rfl
@[simp] theorem State.takeListedSdat_sdatTaken (s : State) : (s.takeListedSdat).sdatTaken = s.sdatTaken + s.sdat.length := rfl
@[simp] theorem State.takeListedSdat_ent (s : State) : (s.takeListedSdat).ent = s.ent := rfl
@[simp] theorem State.takeListedSdat_entLive (s : State) : (s.takeListedSdat).entLive = s.entLive := rfl
@[simp] theorem State.takeListedSdat_entTaken (s : State) : (s.takeListedSdat).entTaken = s.entTaken := rfl
@[simp] theorem State.takeListedSdat_rsp (s : State) : (s.takeListedSdat).rsp = s.rsp := rfl
@[simp] theorem State.takeListedSdat_rst (s : State) : (s.takeListedSdat).rst = s.rst := rfl

@[simp] theorem State.takeListedEnt_gen (s : State) : (s.takeListedEnt).gen = s.gen := rfl
@[simp] theorem State.takeListedEnt_running (s : State) : (s.takeListedEnt).running = s.running := rfl
@[simp] theorem State.takeListedEnt_cmd (s : State) : (s.takeListedEnt).cmd = s.cmd := rfl
@[simp] theorem State.takeListedEnt_sdat (s : State) : (s.takeListedEnt).sdat = s.sdat := rfl
@[simp] theorem State.takeListedEnt_sdatLive (s : State) : (s.takeListedEnt).sdatLive = s.sdatLive := rfl
@[simp] theorem State.takeListedEnt_sdatTaken (s : State) : (s.takeListedEnt).sdatTaken = s.sdatTaken := rfl
@[simp] theorem State.takeListedEnt_ent (s : State) : (s.takeListedEnt).ent = [] := rfl
@[simp] theorem State.takeListedEnt_entLive (s : State) : (s.takeListedEnt).entLive = s.entLive := rfl
@[simp] theorem State.takeListedEnt_entTaken (s : State) : (s.takeListedEnt).entTaken = s.entTaken + s.ent.length := rfl
@[simp] theorem State.takeListedEnt_rsp (s : State) : (s.takeListedEnt).rsp = s.rsp := rfl
@[simp] theorem State.takeListedEnt_rst (s : State) : (s.takeListedEnt).rst = s.rst := rfl

@[simp] theorem State.consumeSdat_gen (n : Nat) (s : State) : (s.consumeSdat n).gen = s.gen := rfl
@[simp] theorem State.consumeSdat_running (n : Nat) (s : State) : (s.consumeSdat n).running = s.running := rfl
@[simp] theorem State.consumeSdat_cmd (n : Nat) (s : State) : (s.consumeSdat n).cmd = s.cmd := rfl
@[simp] theorem State.consumeSdat_sdat (n : Nat) (s : State) : (s.consumeSdat n).sdat = [] := rfl
@[simp] theorem State.consumeSdat_sdatLive (n : Nat) (s : State) : (s.consumeSdat n).sdatLive = s.sdatLive := rfl
@[simp] theorem State.consumeSdat_sdatTaken (n : Nat) (s : State) : (s.consumeSdat n).sdatTaken = s.sdatTaken + n := rfl
@[simp] theorem State.consumeSdat_ent (n : Nat) (s : State) : (s.consumeSdat n).ent = s.ent := rfl
@[simp] theorem State.consumeSdat_entLive (n : Nat) (s : State) : (s.consumeSdat n).entLive = s.entLive := rfl
@[simp] theorem State.consumeSdat_entTaken (n : Nat) (s : State) : (s.consumeSdat n).entTaken = s.entTaken := rfl
@[simp] theorem State.consumeSdat_rsp (n : Nat) (s : State) : (s.consumeSdat n).rsp = s.rsp := rfl
@[simp] theorem State.consumeSdat_rst (n : Nat) (s : State) : (s.consumeSdat n).rst = s.rst := rfl

@[simp] theorem State.consumeEnt_gen (s : State) : (s.consumeEnt).gen = s.gen := rfl
@[simp] theorem State.consumeEnt_running (s : State) : (s.consumeEnt).running = s.running := rfl
@[simp] theorem State.consumeEnt_cmd (s : State) : (s.consumeEnt).cmd = s.cmd := rfl
@[simp] theorem State.consumeEnt_sdat (s : State) : (s.consumeEnt).sdat = s.sdat := rfl
@[simp] theorem State.consumeEnt_sdatLive (s : State) : (s.consumeEnt).sdatLive = s.sdatLive := rfl
@[simp] theorem State.consumeEnt_sdatTaken (s : State) : (s.consumeEnt).sdatTaken = s.sdatTaken := rfl
@[simp] theorem State.consumeEnt_ent (s : State) : (s.consumeEnt).ent = s.ent.drop Config.randsiz := rfl
@[simp] theorem State.consumeEnt_entLive (s : State) : (s.consumeEnt).entLive = s.entLive := rfl
@[simp] theorem State.consumeEnt_entTaken (s : State) : (s.consumeEnt).entTaken = s.entTaken + Config.randsiz := rfl
@[simp] theorem State.consumeEnt_rsp (s : State) : (s.consumeEnt).rsp = s.rsp := rfl
@[simp] theorem State.consumeEnt_rst (s : State) : (s.consumeEnt).rst = s.rst := rfl

@[simp] theorem State.seedAndRespond_gen (buffer : Bank 8) (s : State) : (s.seedAndRespond buffer).gen = seedWith buffer s.gen := rfl
@[simp] theorem State.seedAndRespond_running (buffer : Bank 8) (s : State) : (s.seedAndRespond buffer).running = s.running := rfl
@[simp] theorem State.seedAndRespond_cmd (buffer : Bank 8) (s : State) : (s.seedAndRespond buffer).cmd = s.cmd := rfl
@[simp] theorem State.seedAndRespond_sdat (buffer : Bank 8) (s : State) : (s.seedAndRespond buffer).sdat = s.sdat := rfl
@[simp] theorem State.seedAndRespond_sdatLive (buffer : Bank 8) (s : State) : (s.seedAndRespond buffer).sdatLive = s.sdatLive := rfl
@[simp] theorem State.seedAndRespond_sdatTaken (buffer : Bank 8) (s : State) : (s.seedAndRespond buffer).sdatTaken = s.sdatTaken := rfl
@[simp] theorem State.seedAndRespond_ent (buffer : Bank 8) (s : State) : (s.seedAndRespond buffer).ent = s.ent := rfl
@[simp] theorem State.seedAndRespond_entLive (buffer : Bank 8) (s : State) : (s.seedAndRespond buffer).entLive = s.entLive := rfl
@[simp] theorem State.seedAndRespond_entTaken (buffer : Bank 8) (s : State) : (s.seedAndRespond buffer).entTaken = s.entTaken := rfl
@[simp] theorem State.seedAndRespond_rsp (buffer : Bank 8) (s : State) : (s.seedAndRespond buffer).rsp = s.rsp ++ [responseWord .ok 0] := rfl
@[simp] theorem State.seedAndRespond_rst (buffer : Bank 8) (s : State) : (s.seedAndRespond buffer).rst = s.rst := rfl

@[simp] theorem State.accept_gen (r : Request) (later : List Request) (s : State) : (s.accept r later).gen = s.gen := rfl
@[simp] theorem State.accept_running (r : Request) (later : List Request) (s : State) : (s.accept r later).running = s.running := rfl
@[simp] theorem State.accept_cmd (r : Request) (later : List Request) (s : State) : (s.accept r later).cmd = later := rfl
@[simp] theorem State.accept_sdat (r : Request) (later : List Request) (s : State) : (s.accept r later).sdat = s.sdat ++ r.sdat := rfl
@[simp] theorem State.accept_sdatLive (r : Request) (later : List Request) (s : State) : (s.accept r later).sdatLive = s.sdatLive := rfl
@[simp] theorem State.accept_sdatTaken (r : Request) (later : List Request) (s : State) : (s.accept r later).sdatTaken = s.sdatTaken := rfl
@[simp] theorem State.accept_ent (r : Request) (later : List Request) (s : State) : (s.accept r later).ent = s.ent := rfl
@[simp] theorem State.accept_entLive (r : Request) (later : List Request) (s : State) : (s.accept r later).entLive = s.entLive := rfl
@[simp] theorem State.accept_entTaken (r : Request) (later : List Request) (s : State) : (s.accept r later).entTaken = s.entTaken := rfl
@[simp] theorem State.accept_rsp (r : Request) (later : List Request) (s : State) : (s.accept r later).rsp = s.rsp := rfl
@[simp] theorem State.accept_rst (r : Request) (later : List Request) (s : State) : (s.accept r later).rst = s.rst := rfl

@[simp] theorem State.tick_gen (s : State) : (s.tick).gen = s.gen := rfl
@[simp] theorem State.tick_running (s : State) : (s.tick).running = s.running := rfl
@[simp] theorem State.tick_cmd (s : State) : (s.tick).cmd = s.cmd := rfl
@[simp] theorem State.tick_sdat (s : State) : (s.tick).sdat = s.sdat := rfl
@[simp] theorem State.tick_sdatLive (s : State) : (s.tick).sdatLive = s.sdatLive := rfl
@[simp] theorem State.tick_sdatTaken (s : State) : (s.tick).sdatTaken = s.sdatTaken := rfl
@[simp] theorem State.tick_ent (s : State) : (s.tick).ent = s.ent := rfl
@[simp] theorem State.tick_entLive (s : State) : (s.tick).entLive = s.entLive := rfl
@[simp] theorem State.tick_entTaken (s : State) : (s.tick).entTaken = s.entTaken := rfl
@[simp] theorem State.tick_rsp (s : State) : (s.tick).rsp = s.rsp := rfl
@[simp] theorem State.tick_rst (s : State) : (s.tick).rst = s.rst.tail := rfl

@[simp] theorem State.performReset_gen (s : State) : (s.performReset).gen = resetGen s.gen := rfl
@[simp] theorem State.performReset_running (s : State) : (s.performReset).running = none := rfl
@[simp] theorem State.performReset_cmd (s : State) : (s.performReset).cmd = s.cmd := rfl
@[simp] theorem State.performReset_sdat (s : State) : (s.performReset).sdat = [] := rfl
@[simp] theorem State.performReset_sdatLive (s : State) : (s.performReset).sdatLive = s.sdatLive := rfl
@[simp] theorem State.performReset_sdatTaken (s : State) : (s.performReset).sdatTaken = s.sdatTaken := rfl
@[simp] theorem State.performReset_ent (s : State) : (s.performReset).ent = s.ent := rfl
@[simp] theorem State.performReset_entLive (s : State) : (s.performReset).entLive = s.entLive := rfl
@[simp] theorem State.performReset_entTaken (s : State) : (s.performReset).entTaken = s.entTaken := rfl
@[simp] theorem State.performReset_rsp (s : State) : (s.performReset).rsp = s.rsp := rfl
@[simp] theorem State.performReset_rst (s : State) : (s.performReset).rst = s.rst := rfl

@[simp] theorem regen_cc (g : Gen) : (regen g).cc = g.cc + 1 := rfl
@[simp] theorem regen_cnt (g : Gen) : (regen g).cnt = g.cnt := rfl
theorem regen_rsl (g : Gen) : (regen g).rsl = (rngSteps Config.randsiz (regenStart g)).rsl := rfl
theorem regen_mm (g : Gen) : (regen g).mm = (rngSteps Config.randsiz (regenStart g)).mm := rfl
theorem regen_aa (g : Gen) : (regen g).aa = (rngSteps Config.randsiz (regenStart g)).a := rfl
theorem regen_bb (g : Gen) : (regen g).bb = (rngSteps Config.randsiz (regenStart g)).b := rfl

@[simp] theorem regenStart_a (g : Gen) : (regenStart g).a = g.aa := rfl
@[simp] theorem regenStart_b (g : Gen) : (regenStart g).b = g.bb + (g.cc + 1) := rfl
@[simp] theorem regenStart_mm (g : Gen) : (regenStart g).mm = g.mm := rfl
@[simp] theorem regenStart_rsl (g : Gen) : (regenStart g).rsl = g.rsl := rfl

@[simp] theorem randinit_cnt (g : Gen) : (randinit g).cnt = 256 := rfl
@[simp] theorem seedWith_cnt (buffer : Bank 8) (g : Gen) : (seedWith buffer g).cnt = 256 := rfl

@[simp] theorem Cursor.pred_val (c : Cursor) : (Cursor.pred c).val = c.val - 1 := rfl

/-- R82: the branch that regenerates. -/
theorem Gen.advance_of_zero {g : Gen} (h : g.cnt = 0) : g.advance = { regen g with cnt := 255 } := by
  simp only [Gen.advance, if_pos h]

/-- R82, R86: the branch that only moves the cursor. -/
theorem Gen.advance_of_ne {g : Gen} (h : g.cnt ≠ 0) : g.advance = { g with cnt := Cursor.pred g.cnt } := by
  simp only [Gen.advance, if_neg h]

@[simp] theorem Gen.advances_zero (g : Gen) : g.advances 0 = g := rfl
theorem Gen.advances_succ (n : Nat) (g : Gen) : g.advances (n + 1) = g.advance.advances n := rfl

end Sys2Proof.Machine
end

