-- ==== Sys2Proof/Laws/Eval.lean ====
section
/-! SUPPORT. A second way to compute `MIX`, `REGEN` and `RANDINIT`, proved equal to the model's own, that Lean's kernel runs
quickly: all words of one computation are cells of one natural number, and every intermediate number is forced before it is used.
Cells 0 to 7 hold `P`, 8 to 263 `MM`, 264 to 519 `RSL`, 520 the local `a`, 521 the local `b`. Tests and proofs about concrete
seeds go through `sim_regen` and `sim_randinit`; the model itself never uses this file. -/

namespace Sys2Proof.Laws.Eval

open Sys2Proof.Machine

/-- The word in cell `i`. -/
def rd (m i : Nat) : Nat := (m >>> (32 * i)) % 2 ^ 32

/-- The cells with one word replaced. -/
def wr (m i v : Nat) : Nat := m ^^^ ((rd m i ^^^ v) <<< (32 * i))

/-- `k` applied to the value of `n`, evaluated first. -/
def force (n : Nat) (k : Nat → Nat) : Nat :=
  match n with
  | 0 => k 0
  | j + 1 => k (j + 1)

theorem force_eq (n : Nat) (k : Nat → Nat) : force n k = k n := by
  cases n <;> rfl

/-- The loop of the pseudocode over cells, forced at every pass. -/
def loop : Nat → (Nat → Nat → Nat) → Nat → Nat
  | 0, _, m => m
  | k + 1, body, m => force (loop k body m) (body k)

theorem testBit_rd (m i b : Nat) : (rd m i).testBit b = (decide (b < 32) && m.testBit (32 * i + b)) := by
  rw [rd, Nat.testBit_mod_two_pow, Nat.testBit_shiftRight]

theorem rd_wr_same (m i v : Nat) (hv : v < 2 ^ 32) : rd (wr m i v) i = v := by
  apply Nat.eq_of_testBit_eq
  intro b
  rw [testBit_rd, wr, Nat.testBit_xor, Nat.testBit_shiftLeft, Nat.testBit_xor]
  by_cases hb : b < 32
  · have h1 : 32 * i + b ≥ 32 * i := by omega
    have h2 : 32 * i + b - 32 * i = b := by omega
    rw [h2, testBit_rd]
    simp [hb, h1]
  · have : v.testBit b = false := by
      apply Nat.testBit_lt_two_pow
      exact lt_of_lt_of_le hv (Nat.pow_le_pow_right (by omega) (by omega))
    simp [hb, this]

theorem rd_wr_ne (m i j v : Nat) (hv : v < 2 ^ 32) (h : i ≠ j) : rd (wr m i v) j = rd m j := by
  apply Nat.eq_of_testBit_eq
  intro b
  rw [testBit_rd, testBit_rd, wr, Nat.testBit_xor, Nat.testBit_shiftLeft, Nat.testBit_xor]
  by_cases hb : b < 32
  · by_cases hle : 32 * i ≤ 32 * j + b
    · have hge : 32 ≤ 32 * j + b - 32 * i := by omega
      have hv' : v.testBit (32 * j + b - 32 * i) = false := by
        apply Nat.testBit_lt_two_pow
        exact lt_of_lt_of_le hv (Nat.pow_le_pow_right (by omega) hge)
      have hr : (rd m i).testBit (32 * j + b - 32 * i) = false := by
        rw [testBit_rd]; simp; omega
      simp [hv', hr]
    · simp [hle]
  · simp [hb]

/-- The cells from `off` on hold a store's words. -/
def Holds {n : Nat} (off m : Nat) (t : Bank n) : Prop := ∀ i : BitVec n, rd m (off + i.toNat) = (t.read i).toNat

theorem Holds.write_in {n off m : Nat} {t : Bank n} (h : Holds off m t) (i : BitVec n) (v : Word) :
    Holds off (wr m (off + i.toNat) v.toNat) (t.write i v) := by
  intro j
  by_cases hij : i = j
  · subst hij; rw [rd_wr_same _ _ _ v.isLt, Bank.read_write_same]
  · have : off + i.toNat ≠ off + j.toNat := fun e => hij (BitVec.eq_of_toNat_eq (by omega))
    rw [rd_wr_ne _ _ _ _ v.isLt this, Bank.read_write_ne t v hij, h j]

theorem Holds.write_out {n off m k : Nat} {t : Bank n} (h : Holds off m t) (v : Word) (hk : k < off ∨ off + 2 ^ n ≤ k) :
    Holds off (wr m k v.toNat) t := by
  intro j
  have : k ≠ off + j.toNat := by have := j.isLt; omega
  rw [rd_wr_ne _ _ _ _ v.isLt this, h j]

/-- The cells of `m` hold these stores and locals. -/
structure Sim (m : Nat) (p : Bank 3) (mm rsl : Bank 8) (a b : Word) : Prop where
  p   : Holds 0 m p
  mm  : Holds 8 m mm
  rsl : Holds 264 m rsl
  a   : rd m 520 = a.toNat
  b   : rd m 521 = b.toNat

variable {m : Nat} {p : Bank 3} {mm rsl : Bank 8} {a b : Word}

theorem Sim.writeP (h : Sim m p mm rsl a b) (i : BitVec 3) (v : Word) :
    Sim (wr m i.toNat v.toNat) (p.write i v) mm rsl a b := by
  have hi := i.isLt
  refine ⟨?_, h.mm.write_out v (by omega), h.rsl.write_out v (by omega), ?_, ?_⟩
  · simpa using h.p.write_in i v
  · rw [rd_wr_ne _ _ _ _ v.isLt (by omega), h.a]
  · rw [rd_wr_ne _ _ _ _ v.isLt (by omega), h.b]

theorem Sim.writeMM (h : Sim m p mm rsl a b) (i : BitVec 8) (v : Word) :
    Sim (wr m (8 + i.toNat) v.toNat) p (mm.write i v) rsl a b := by
  have hi := i.isLt
  refine ⟨h.p.write_out v (by omega), h.mm.write_in i v, h.rsl.write_out v (by omega), ?_, ?_⟩
  · rw [rd_wr_ne _ _ _ _ v.isLt (by omega), h.a]
  · rw [rd_wr_ne _ _ _ _ v.isLt (by omega), h.b]

theorem Sim.writeRSL (h : Sim m p mm rsl a b) (i : BitVec 8) (v : Word) :
    Sim (wr m (264 + i.toNat) v.toNat) p mm (rsl.write i v) a b := by
  have hi := i.isLt
  refine ⟨h.p.write_out v (by omega), h.mm.write_out v (by omega), h.rsl.write_in i v, ?_, ?_⟩
  · rw [rd_wr_ne _ _ _ _ v.isLt (by omega), h.a]
  · rw [rd_wr_ne _ _ _ _ v.isLt (by omega), h.b]

theorem Sim.writeA (h : Sim m p mm rsl a b) (v : Word) : Sim (wr m 520 v.toNat) p mm rsl v b := by
  refine ⟨h.p.write_out v (by omega), h.mm.write_out v (by omega), h.rsl.write_out v (by omega), ?_, ?_⟩
  · rw [rd_wr_same _ _ _ v.isLt]
  · rw [rd_wr_ne _ _ _ _ v.isLt (by omega), h.b]

theorem Sim.writeB (h : Sim m p mm rsl a b) (v : Word) : Sim (wr m 521 v.toNat) p mm rsl a v := by
  refine ⟨h.p.write_out v (by omega), h.mm.write_out v (by omega), h.rsl.write_out v (by omega), ?_, ?_⟩
  · rw [rd_wr_ne _ _ _ _ v.isLt (by omega), h.a]
  · rw [rd_wr_same _ _ _ v.isLt]

theorem Sim.readP (h : Sim m p mm rsl a b) (i : BitVec 3) : rd m i.toNat = (p.read i).toNat := by
  simpa using h.p i

theorem Sim.addP (h : Sim m p mm rsl a b) (i j : BitVec 3) :
    Sim (wr m i.toNat ((rd m i.toNat + rd m j.toNat) % 2 ^ 32)) (p.write i (p.read i + p.read j)) mm rsl a b := by
  have := h.writeP i (p.read i + p.read j)
  rwa [BitVec.toNat_add (p.read i), ← h.readP, ← h.readP] at this

theorem loop_rel {σ : Type} {f : Nat → Nat → Nat} {g : Nat → σ → σ} (R : Nat → σ → Prop) (hs : ∀ j m t, R m t → R (f j m) (g j t)) :
    ∀ k m t, R m t → R (loop k f m) (forRange k g t)
  | 0, m, t, h => by rw [forRange_zero]; exact h
  | k + 1, m, t, h => by
    rw [forRange_succ, loop, force_eq]
    exact hs k _ _ (loop_rel R hs k m t h)

theorem loop_rel_lt {σ : Type} {f : Nat → Nat → Nat} {g : Nat → σ → σ} (R : Nat → σ → Prop) :
    ∀ k, (∀ j m t, j < k → R m t → R (f j m) (g j t)) → ∀ m t, R m t → R (loop k f m) (forRange k g t)
  | 0, _, m, t, h => by rw [forRange_zero]; exact h
  | k + 1, hs, m, t, h => by
    rw [forRange_succ, loop, force_eq]
    exact hs k _ _ (Nat.lt_succ_self k) (loop_rel_lt R k (fun j m t hj => hs j m t (Nat.lt_succ_of_lt hj)) m t h)

/-! `MIX`. -/

def mixShiftN (k v : Nat) : Nat :=
  let amount := [11, 2, 8, 16, 10, 4, 8, 9].getD k 0
  if k % 2 = 0 then (v <<< amount) % 2 ^ 32 else v >>> amount

theorem mixShiftN_eq (k : BitVec 3) (v : Word) : mixShiftN k.toNat v.toNat = (mixShift k v).toNat := by
  have hk : k = 0 ∨ k = 1 ∨ k = 2 ∨ k = 3 ∨ k = 4 ∨ k = 5 ∨ k = 6 ∨ k = 7 := by
    revert k; decide
  rcases hk with h | h | h | h | h | h | h | h <;> subst h <;>
    first
      | (rw [show mixShift _ v = v <<< _ from rfl, BitVec.toNat_shiftLeft]; rfl)
      | (rw [show mixShift _ v = v >>> _ from rfl, BitVec.toNat_ushiftRight]; rfl)

def mixStepN (k m : Nat) : Nat :=
  let k1 := (k + 1) % 8
  let k2 := (k + 2) % 8
  let k3 := (k + 3) % 8
  force (wr m k (rd m k ^^^ mixShiftN k (rd m k1))) fun m =>
  force (wr m k3 ((rd m k3 + rd m k) % 2 ^ 32)) fun m =>
  wr m k1 ((rd m k1 + rd m k2) % 2 ^ 32)

theorem sim_mixStep (k : BitVec 3) (h : Sim m p mm rsl a b) : Sim (mixStepN k.toNat m) (mixStep k p) mm rsl a b := by
  have e1 : (k.toNat + 1) % 8 = (k + 1).toNat := by rw [BitVec.toNat_add]; rfl
  have e2 : (k.toNat + 2) % 8 = (k + 2).toNat := by rw [BitVec.toNat_add]; rfl
  have e3 : (k.toNat + 3) % 8 = (k + 3).toNat := by rw [BitVec.toNat_add]; rfl
  simp only [mixStepN, force_eq, e1, e2, e3]
  have s1 := h.writeP k (p.read k ^^^ mixShift k (p.read (k + 1)))
  rw [BitVec.toNat_xor, ← mixShiftN_eq, ← h.readP, ← h.readP] at s1
  exact (s1.addP (k + 3) k).addP (k + 1) (k + 2)

def mixN (m : Nat) : Nat := loop 8 mixStepN m

theorem sim_mix (h : Sim m p mm rsl a b) : Sim (mixN m) (mix p) mm rsl a b := by
  refine loop_rel_lt (fun m p => Sim m p mm rsl a b) 8 (fun j m p hj h => ?_) m p h
  have := sim_mixStep (BitVec.ofNat 3 j) h
  rwa [BitVec.toNat_ofNat, Nat.mod_eq_of_lt (by omega)] at this

/-! `REGEN`. -/

def stepShiftN (i a : Nat) : Nat :=
  match i % 4 with
  | 0 => (a <<< 13) % 2 ^ 32
  | 1 => a >>> 6
  | 2 => (a <<< 2) % 2 ^ 32
  | _ => a >>> 16

theorem stepShiftN_eq (i : BitVec 8) (v : Word) : stepShiftN i.toNat v.toNat = (stepShift i v).toNat := by
  unfold stepShiftN stepShift
  have h4 : i.toNat % 4 < 4 := Nat.mod_lt _ (by omega)
  generalize i.toNat % 4 = r at h4
  match r, h4 with
  | 0, _ => simp
  | 1, _ => simp
  | 2, _ => simp
  | 3, _ => simp

def indN (v : Nat) : Nat := (v >>> 2) % 256

theorem indN_eq (v : Word) : indN v.toNat = (indIndex v).toNat := by
  simp [indN, indIndex]

def stepN (i m : Nat) : Nat :=
  force (rd m (8 + i)) fun x =>
  force (((rd m 520 ^^^ stepShiftN i (rd m 520)) + rd m (8 + (i + 128) % 256)) % 2 ^ 32) fun a =>
  force (((rd m (8 + indN x) + a) % 2 ^ 32 + rd m 521) % 2 ^ 32) fun y =>
  force (wr m (8 + i) y) fun m =>
  force ((rd m (8 + indN (y >>> 8)) + x) % 2 ^ 32) fun b =>
  force (wr m 520 a) fun m =>
  force (wr m 521 b) fun m =>
  wr m (264 + i) b

theorem sim_rngStep (i : BitVec 8) (c : RegenLocals) (h : Sim m p c.mm c.rsl c.a c.b) :
    Sim (stepN i.toNat m) p (rngStep i c).mm (rngStep i c).rsl (rngStep i c).a (rngStep i c).b := by
  have ep : (i.toNat + 128) % 256 = (pairedIndex i).toNat := by simp [pairedIndex, Config.half]
  have ex : rd m (8 + i.toNat) = (c.mm.read i).toNat := h.mm i
  have ea : ((rd m 520 ^^^ stepShiftN i.toNat (rd m 520)) + rd m (8 + (i.toNat + 128) % 256)) % 2 ^ 32 = (rngStep i c).a.toNat := by
    show _ = ((c.a ^^^ stepShift i c.a) + c.mm.read (pairedIndex i)).toNat
    rw [BitVec.toNat_add, BitVec.toNat_xor, ← stepShiftN_eq, ep, h.a, h.mm (pairedIndex i)]
  have ey : ((rd m (8 + indN (c.mm.read i).toNat) + (rngStep i c).a.toNat) % 2 ^ 32 + rd m 521) % 2 ^ 32 =
      (ind c.mm (c.mm.read i) + (rngStep i c).a + c.b).toNat := by
    rw [BitVec.toNat_add, BitVec.toNat_add, indN_eq, h.mm (indIndex _), h.b]; rfl
  have s1 := h.writeMM i (ind c.mm (c.mm.read i) + (rngStep i c).a + c.b)
  have eb : (rd (wr m (8 + i.toNat) (ind c.mm (c.mm.read i) + (rngStep i c).a + c.b).toNat)
      (8 + indN ((ind c.mm (c.mm.read i) + (rngStep i c).a + c.b).toNat >>> 8)) + (c.mm.read i).toNat) % 2 ^ 32 =
      (rngStep i c).b.toNat := by
    rw [← BitVec.toNat_ushiftRight, indN_eq, s1.mm (indIndex _)]
    show _ = (ind _ _ + c.mm.read i).toNat
    rw [BitVec.toNat_add]; rfl
  simp only [stepN, force_eq, ex, ea, ey, eb]
  exact ((s1.writeA _).writeB _).writeRSL i _

def regenN (cc m : Nat) : Nat :=
  force (wr m 521 ((rd m 521 + (cc + 1) % 2 ^ 32) % 2 ^ 32)) fun m => loop 256 stepN m

theorem sim_regen (g : Gen) (h : Sim m p g.mm g.rsl g.aa g.bb) :
    Sim (regenN g.cc.toNat m) p (regen g).mm (regen g).rsl (regen g).aa (regen g).bb := by
  have h0 := h.writeB (g.bb + (g.cc + 1))
  rw [BitVec.toNat_add, BitVec.toNat_add, ← h.b] at h0
  rw [regenN, force_eq]
  refine loop_rel_lt (fun m (c : RegenLocals) => Sim m p c.mm c.rsl c.a c.b) 256 (fun j m c hj h => ?_) _ (regenStart g) h0
  have := sim_rngStep (BitVec.ofNat 8 j) c h
  rwa [BitVec.toNat_ofNat, Nat.mod_eq_of_lt (by omega)] at this

/-! `RANDINIT`. -/

def groupN (src g m : Nat) : Nat :=
  force (loop 8 (fun j m => wr m j ((rd m j + rd m (src + (8 * g + j))) % 2 ^ 32)) m) fun m =>
  force (mixN m) fun m =>
  loop 8 (fun j m => wr m (8 + (8 * g + j)) (rd m j)) m

theorem groupIndex_toNat {g j : Nat} (hg : g < 32) (hj : j < 8) : (groupIndex g j).toNat = 8 * g + j := by
  rw [groupIndex, BitVec.toNat_ofNat, Config.group]; omega

theorem ofNat3_toNat {j : Nat} (hj : j < 8) : (BitVec.ofNat 3 j).toNat = j := by
  rw [BitVec.toNat_ofNat]; omega

/-- One absorption group over cells. The source is the store held from cell `off` on, which the additions to `P` leave alone. -/
theorem sim_absorbGroup {g off : Nat} (hg : g < 32) (s : Absorb) (src : Bank 8)
    (hsrc : ∀ {m p}, Sim m p s.mm rsl a b → Holds off m src) (h : Sim m s.p s.mm rsl a b) :
    Sim (groupN off g m) (absorbGroup src g s).p (absorbGroup src g s).mm rsl a b := by
  rw [groupN, force_eq, force_eq]
  have h1 : Sim (loop 8 (fun j m => wr m j ((rd m j + rd m (off + (8 * g + j))) % 2 ^ 32)) m) (addGroup src g s.p) s.mm rsl a b := by
    refine loop_rel_lt (fun m p => Sim m p s.mm rsl a b) 8 (fun j m p hj h => ?_) m s.p h
    have := h.writeP (BitVec.ofNat 3 j) (p.read (BitVec.ofNat 3 j) + src.read (groupIndex g j))
    rwa [BitVec.toNat_add, ← h.readP, ← hsrc h (groupIndex g j), groupIndex_toNat hg hj, ofNat3_toNat hj] at this
  have h2 := sim_mix h1
  refine loop_rel_lt (fun m mm => Sim m (mix (addGroup src g s.p)) mm rsl a b) 8 (fun j m mm hj h => ?_) _ s.mm h2
  have := h.writeMM (groupIndex g j) ((mix (addGroup src g s.p)).read (BitVec.ofNat 3 j))
  rwa [← h.readP, groupIndex_toNat hg hj, ofNat3_toNat hj] at this

def randinitN (m : Nat) : Nat :=
  force (loop 8 (fun j m => wr m j 0x9E3779B9) m) fun m =>
  force (loop 4 (fun _ m => mixN m) m) fun m =>
  force (loop 32 (groupN 264) m) fun m =>
  force (loop 32 (groupN 8) m) fun m =>
  force (wr m 520 0) fun m =>
  force (wr m 521 0) fun m =>
  regenN 0 m

theorem sim_golden (h : Sim m p mm rsl a b) : Sim (loop 8 (fun j m => wr m j 0x9E3779B9) m) goldenMixers mm rsl a b := by
  have hl : Sim (loop 8 (fun j m => wr m j 0x9E3779B9) m)
      (forRange 8 (fun j p => p.write (BitVec.ofNat 3 j) Config.golden) p) mm rsl a b := by
    refine loop_rel_lt (fun m p => Sim m p mm rsl a b) 8 (fun j m p hj h => ?_) m p h
    have := h.writeP (BitVec.ofNat 3 j) Config.golden
    rwa [ofNat3_toNat hj] at this
  have he : forRange 8 (fun j p => p.write (BitVec.ofNat 3 j) Config.golden) p = goldenMixers := by
    apply Bank.ext_read
    intro i
    have hi : i.toNat < 8 := i.isLt
    have := forRange_induct (body := fun j (p : Bank 3) => p.write (BitVec.ofNat 3 j) Config.golden) (s := p)
      (fun k p => ∀ i : BitVec 3, i.toNat < k → p.read i = Config.golden) (by intro i hi; omega) 8
      (by
        intro j hj u hu i hi
        rw [Bank.read_write]
        split
        · rfl
        · rename_i hne
          apply hu
          have : i.toNat ≠ j := fun e => hne (by rw [← e, BitVec.ofNat_toNat, BitVec.setWidth_eq])
          omega)
    rw [this i hi, goldenMixers, Bank.read_fill]
  rwa [he] at hl

theorem sim_randinit (g : Gen) (h : Sim m p g.mm g.rsl g.aa g.bb) :
    ∃ p', Sim (randinitN m) p' (randinit g).mm (randinit g).rsl (randinit g).aa (randinit g).bb := by
  simp only [randinitN, force_eq]
  have h1 := sim_golden h
  have h2 : Sim _ (scramble goldenMixers) g.mm g.rsl g.aa g.bb :=
    loop_rel (f := fun _ m => mixN m) (g := fun _ => mix) (fun m p => Sim m p g.mm g.rsl g.aa g.bb)
      (fun _ _ _ h => sim_mix h) 4 _ _ h1
  have h3 := loop_rel_lt (f := groupN 264) (g := absorbGroup g.rsl) (fun m (s : Absorb) => Sim m s.p s.mm g.rsl g.aa g.bb) 32
    (fun j m s hj h => sim_absorbGroup hj s g.rsl (fun h => h.rsl) h) _ { p := scramble goldenMixers, mm := g.mm } h2
  have h4 := loop_rel_lt (f := groupN 8) (g := fun k (s : Absorb) => absorbGroup s.mm k s)
    (fun m (s : Absorb) => Sim m s.p s.mm g.rsl g.aa g.bb) 32
    (fun j m s hj h => sim_absorbGroup hj s s.mm (fun h => h.mm) h) _ _ h3
  have h5 := (h4.writeA 0).writeB 0
  exact ⟨_, sim_regen { g with mm := seededTable g.rsl g.mm, aa := 0, bb := 0, cc := 0 } h5⟩

end Sys2Proof.Laws.Eval
end

