-- ==== Sys2Proof/Laws/Loops.lean ====
section
/-! SUPPORT. What the loops of `RNGSTEP` and of the absorption passes do, word by word, so that later proofs unfold none. -/

namespace Sys2Proof.Machine

@[simp] theorem rngSteps_zero (c : RegenLocals) : rngSteps 0 c = c := forRange_zero _ c

/-- R78: one more step. -/
theorem rngSteps_succ (i : Nat) (c : RegenLocals) : rngSteps (i + 1) c = rngStep (BitVec.ofNat 8 i) (rngSteps i c) :=
  forRange_succ i _ c

theorem groupIndex_eq_iff {g j : Nat} (hg : g < 32) (hj : j < 8) (i : BitVec 8) : groupIndex g j = i ↔ i.toNat = 8 * g + j := by
  rw [← BitVec.toNat_inj, Laws.Eval.groupIndex_toNat hg hj, eq_comm]

/-- R67, R68: word `8g + j` of the source is added to `P[j]`. -/
theorem addGroup_read (src : Bank 8) (g : Nat) (p : Bank 3) (j : BitVec 3) :
    (addGroup src g p).read j = p.read j + src.read (groupIndex g j.toNat) := by
  have h := forRange_induct
    (body := fun j p => Bank.write p (BitVec.ofNat 3 j) (p.read (BitVec.ofNat 3 j) + src.read (groupIndex g j))) (s := p)
    (fun k t => t.read j = if j.toNat < k then p.read j + src.read (groupIndex g j.toNat) else p.read j)
    rfl 8 (by
      intro k hk u hu
      have hj : BitVec.ofNat 3 k = j ↔ j.toNat = k := by
        rw [← BitVec.toNat_inj, Laws.Eval.ofNat3_toNat hk, eq_comm]
      simp only [Bank.read_write, hj]
      by_cases e : j.toNat = k
      · have e' : BitVec.ofNat 3 k = j := hj.mpr e
        rw [if_pos e, if_pos (by omega), e', hu, if_neg (by omega), ← e]
      · rw [if_neg e, hu]
        exact if_congr (by omega) rfl rfl)
  exact h.trans (if_pos j.isLt)

/-- R67, R68: the eight accumulators stand in the group's words, every other word is kept. -/
theorem storeGroup_read (p : Bank 3) {g : Nat} (hg : g < 32) (mm : Bank 8) (i : BitVec 8) :
    (storeGroup p g mm).read i = if i.toNat / 8 = g then p.read (BitVec.ofNat 3 (i.toNat % 8)) else mm.read i := by
  have h := forRange_induct (body := fun j mm => Bank.write mm (groupIndex g j) (p.read (BitVec.ofNat 3 j))) (s := mm)
    (fun k t => t.read i = if i.toNat / 8 = g ∧ i.toNat % 8 < k then p.read (BitVec.ofNat 3 (i.toNat % 8)) else mm.read i)
    (by rw [if_neg (by omega)]) 8 (by
      intro k hk u hu
      simp only [Bank.read_write, groupIndex_eq_iff hg hk]
      by_cases e : i.toNat = 8 * g + k
      · rw [if_pos e, if_pos (by omega), show i.toNat % 8 = k by omega]
      · rw [if_neg e, hu]
        exact if_congr (by omega) rfl rfl)
  exact h.trans (if_congr (by omega) rfl rfl)

end Sys2Proof.Machine
end

