-- ==== Sys2Proof/Laws/Ops.lean ====
section
/-! SUPPORT. For each shared operation, once, everything it can do: the payload and the entropy channel, the two seed shapes,
and one step. -/

namespace Sys2Proof.Machine

/-- The commands' meanings by name, so that a proof rewrites `exec` without unfolding it. -/
theorem exec_seed0 (s : State) : exec .seed0 s = .next (s.seedAndRespond zeroBuffer) := rfl
theorem exec_seedb (n : BitVec 64) (s : State) : exec (.seedb n) s = execSeedb n s := rfl
theorem exec_seedw (n : BitVec 64) (s : State) : exec (.seedw n) s = execSeedw n s := rfl
theorem exec_seede (s : State) : exec .seede s = execSeede s := rfl
theorem exec_next (s : State) :
    exec .next s = .next ({ s with gen := s.gen.advance }.respond .ok s.gen.advance.output) := rfl
theorem exec_discard (n : BitVec 64) (s : State) :
    exec (.discard n) s = .next ({ s with gen := s.gen.advances n.toNat }.respond .ok 0) := rfl

theorem readItems_byte (l : List Byte) : readItems SdatItem.byte? (l.map SdatItem.byte) = some l := by
  induction l with
  | nil => rfl
  | cons b l ih => simp [readItems, SdatItem.byte?, ih]

theorem readItems_word (l : List Word) : readItems SdatItem.word? (l.map SdatItem.word) = some l := by
  induction l with
  | nil => rfl
  | cons w l ih => simp [readItems, SdatItem.word?, ih]

@[simp] theorem freeItems_length {α : Type} (free : Nat → α) (start m : Nat) : (freeItems free start m).length = m := by
  simp [freeItems]

@[simp] theorem freeItems_none {α : Type} (free : Nat → α) (start : Nat) : freeItems free start 0 = [] := rfl

/-- R50, R51: a payload of exactly `n` listed items gives the first `cap` of them. -/
theorem supply_exact {α : Type} (l : List α) (live : Bool) (free : Nat → α) (start cap : Nat) :
    supply (some l) live free start l.length cap = .whole (l.take cap) := by
  have : min l.length cap - l.length = 0 := by omega
  simp [supply, this]

/-- Everything the seed-data port can give a command. -/
theorem supply_cases {α : Type} (listed : Option (List α)) (live : Bool) (free : Nat → α) (start n cap : Nat) :
    (listed = none ∧ supply listed live free start n cap = .violation) ∨
    (∃ l, listed = some l ∧ n < l.length ∧ supply listed live free start n cap = .violation) ∨
    (∃ l, listed = some l ∧ l.length < n ∧ live = false ∧ supply listed live free start n cap = .starved) ∨
    (∃ l, listed = some l ∧ l.length ≤ n ∧ (l.length = n ∨ live = true) ∧
      supply listed live free start n cap =
        .whole (l.take cap ++ freeItems free (start + l.length) (min n cap - l.length))) := by
  cases listed with
  | none => exact .inl ⟨rfl, rfl⟩
  | some l =>
    by_cases h1 : n < l.length
    · exact .inr (.inl ⟨l, rfl, h1, by simp [supply, h1]⟩)
    · by_cases h2 : l.length = n ∨ live = true
      · exact .inr (.inr (.inr ⟨l, rfl, by omega, h2, by simp only [supply, if_neg h1, if_pos h2]⟩))
      · refine .inr (.inr (.inl ⟨l, rfl, by omega, ?_, by simp only [supply, if_neg h1, if_neg h2]⟩))
        cases live with
        | false => rfl
        | true => exact absurd (Or.inr rfl) h2

/-- R61, R62: what a seed command with a payload can answer. -/
theorem seedFromPayload_cases {α : Type} (i : Instr) (n : Nat) (buffer : List α → Bank 8) (items : Supply α) (s : State) :
    (∃ used, items = .whole used ∧
      seedFromPayload i n buffer items s = .next ((s.consumeSdat n).seedAndRespond (buffer used))) ∨
    (items = .starved ∧ seedFromPayload i n buffer items s = .next (s.takeListedSdat.await i)) ∨
    (items = .violation ∧ seedFromPayload i n buffer items s = .refused .payloadViolation) := by
  cases items with
  | whole used => exact .inl ⟨used, rfl, rfl⟩
  | starved => exact .inr (.inl ⟨rfl, rfl⟩)
  | violation => exact .inr (.inr ⟨rfl, rfl⟩)

/-- R63: what `SEEDE` can answer. -/
theorem seedFromEntropy_cases (i : Instr) (answers : Option (List Word)) (s : State) :
    (∃ words, answers = some words ∧
      seedFromEntropy i answers s = .next (s.consumeEnt.seedAndRespond (copyWords words 0 s.gen.rsl))) ∨
    (answers = none ∧ seedFromEntropy i answers s = .next (s.takeListedEnt.await i)) := by
  cases answers with
  | some words => exact .inl ⟨words, rfl, rfl⟩
  | none => exact .inr ⟨rfl, rfl⟩

/-- Everything a command can do to the state: seed the generator from some buffer, wait, be refused, or move the cursor. -/
theorem exec_cases (i : Instr) (s : State) :
    (∃ (n : Nat) (buffer : Bank 8), exec i s = .next ((s.consumeSdat n).seedAndRespond buffer)) ∨
    (∃ buffer : Bank 8, exec i s = .next (s.seedAndRespond buffer)) ∨
    (∃ buffer : Bank 8, exec i s = .next (s.consumeEnt.seedAndRespond buffer)) ∨
    (waitsForPort (some i) = true ∧ (exec i s = .next (s.takeListedSdat.await i) ∨ exec i s = .next (s.takeListedEnt.await i))) ∨
    exec i s = .refused .payloadViolation ∨
    (∃ (n : Nat) (data : Word), exec i s = .next ({ s with gen := s.gen.advances n }.respond .ok data)) := by
  cases i with
  | seed0 => exact .inr (.inl ⟨zeroBuffer, rfl⟩)
  | seedb n =>
    rcases seedFromPayload_cases (.seedb n) n.toNat byteBuffer
      (supply (readItems SdatItem.byte? s.sdat) s.sdatLive Config.payloadByte s.sdatTaken n.toNat Config.seedBytesMax) s with
      ⟨used, -, h⟩ | ⟨-, h⟩ | ⟨-, h⟩
    · exact .inl ⟨_, _, h⟩
    · exact .inr (.inr (.inr (.inl ⟨rfl, .inl h⟩)))
    · exact .inr (.inr (.inr (.inr (.inl h))))
  | seedw n =>
    rcases seedFromPayload_cases (.seedw n) n.toNat wordBuffer
      (supply (readItems SdatItem.word? s.sdat) s.sdatLive Config.payloadWord s.sdatTaken n.toNat Config.randsiz) s with
      ⟨used, -, h⟩ | ⟨-, h⟩ | ⟨-, h⟩
    · exact .inl ⟨_, _, h⟩
    · exact .inr (.inr (.inr (.inl ⟨rfl, .inl h⟩)))
    · exact .inr (.inr (.inr (.inr (.inl h))))
  | seede =>
    rcases seedFromEntropy_cases .seede (entropyWords s.ent s.entLive s.entTaken) s with ⟨words, -, h⟩ | ⟨-, h⟩
    · exact .inr (.inr (.inl ⟨_, h⟩))
    · exact .inr (.inr (.inr (.inl ⟨rfl, .inr h⟩)))
  | next => exact .inr (.inr (.inr (.inr (.inr ⟨1, s.gen.advance.output, rfl⟩))))
  | discard n => exact .inr (.inr (.inr (.inr (.inr ⟨n.toNat, 0, rfl⟩))))

/-- Everything a step can do. -/
theorem step_cases (s : State) :
    (s.resetDue = true ∧ step s = .next s.tick.performReset) ∨
    (s.resetDue = false ∧ (∃ i, s.running = some i) ∧ step s = .next s.tick) ∨
    (s.resetDue = false ∧ s.running = none ∧ s.cmd = [] ∧ step s = .next s.tick) ∨
    (∃ r later i, s.resetDue = false ∧ s.running = none ∧ s.cmd = r :: later ∧ decode r.cw = .ok i ∧
      step s = exec i (s.tick.accept r later)) ∨
    (∃ r later e, s.resetDue = false ∧ s.running = none ∧ s.cmd = r :: later ∧ decode r.cw = .error e ∧
      step s = .next (s.tick.accept r later).raiseIllegal) := by
  cases hr : s.resetDue with
  | true => exact .inl ⟨rfl, by simp [step, resetOrServe, hr]⟩
  | false =>
    have hs : step s = serve s.tick := by simp [step, resetOrServe, hr]
    rw [hs]
    cases hrun : s.running with
    | some i => exact .inr (.inl ⟨rfl, ⟨i, rfl⟩, by simp [serve, hrun]⟩)
    | none =>
      cases hc : s.cmd with
      | nil => exact .inr (.inr (.inl ⟨rfl, rfl, rfl, by simp [serve, hrun, hc]⟩))
      | cons r later =>
        cases hd : decode r.cw with
        | ok i => exact .inr (.inr (.inr (.inl ⟨r, later, i, rfl, rfl, rfl, hd, by simp [serve, hrun, hc, hd]⟩)))
        | error e => exact .inr (.inr (.inr (.inr ⟨r, later, e, rfl, rfl, rfl, hd, by simp [serve, hrun, hc, hd]⟩)))

end Sys2Proof.Machine
end

