-- ==== Sys2Proof/Laws/PerInstr.lean ====
section
/-! SUPPORT. The family `RowMatchesWord`, made instruction by instruction: the word an instruction is encoded to carries its
opcode and its count in the fields of R47 and selects the instruction's own row of the match-and-mask table (R56). -/

namespace Sys2Proof.Laws

theorem opOf_append (op : BitVec 8) (n : BitVec 64) : opOf (op ++ n) = op := by
  apply BitVec.eq_of_getLsbD_eq
  intro i hi
  simp only [opOf, BitVec.getLsbD_extractLsb', hi, decide_true, Bool.true_and]
  erw [BitVec.getLsbD_append]
  simp

theorem countOf_append (op : BitVec 8) (n : BitVec 64) : countOf (op ++ n) = n := by
  apply BitVec.eq_of_getLsbD_eq
  intro i hi
  simp only [countOf, BitVec.getLsbD_extractLsb', hi, decide_true, Bool.true_and, Nat.zero_add]
  erw [BitVec.getLsbD_append]
  simp [hi]

/-- R47: a command word is its two fields. -/
theorem append_fields (cw : BitVec 72) : opOf cw ++ countOf cw = cw := by
  apply BitVec.eq_of_getLsbD_eq
  intro i hi
  erw [BitVec.getLsbD_append]
  by_cases h : i < 64
  · simp [countOf, h]
  · have h8 : i - 64 < 8 := by omega
    have : 64 + (i - 64) = i := by omega
    simp only [opOf, BitVec.getLsbD_extractLsb', h, h8, this]
    simp

/-- R56: a row whose mask covers only the opcode field is selected by the opcode field alone. -/
theorem opcode_masked (op : BitVec 8) (n : BitVec 64) :
    (op ++ n) &&& 0xFF0000000000000000#72 = op ++ 0#64 := by
  have h : 0xFF0000000000000000#72 = 0xFF#8 ++ 0#64 := by decide
  rw [h]
  refine (BitVec.and_append).trans ?_
  rw [BitVec.and_zero]
  exact congrArg (· ++ 0#64) (BitVec.and_allOnes (x := op))

def RowMatchesWord.Statement (i : Instr) : Prop :=
  opOf (encode i) = i.opcode ∧ countOf (encode i) = i.count ∧ i.row.selects (encode i) = true

theorem RowMatchesWord.seed0 : RowMatchesWord.Statement .seed0 := by
  refine ⟨opOf_append _ _, countOf_append _ _, ?_⟩; decide

theorem RowMatchesWord.seedb (n : BitVec 64) : RowMatchesWord.Statement (.seedb n) := by
  refine ⟨opOf_append _ _, countOf_append _ _, ?_⟩
  simp only [OpcodeRow.selects, Instr.row, encode, Instr.opcode, Instr.count, opcode_masked]; decide

theorem RowMatchesWord.seedw (n : BitVec 64) : RowMatchesWord.Statement (.seedw n) := by
  refine ⟨opOf_append _ _, countOf_append _ _, ?_⟩
  simp only [OpcodeRow.selects, Instr.row, encode, Instr.opcode, Instr.count, opcode_masked]; decide

theorem RowMatchesWord.seede : RowMatchesWord.Statement .seede := by
  refine ⟨opOf_append _ _, countOf_append _ _, ?_⟩; decide

theorem RowMatchesWord.next : RowMatchesWord.Statement .next := by
  refine ⟨opOf_append _ _, countOf_append _ _, ?_⟩; decide

theorem RowMatchesWord.discard (n : BitVec 64) : RowMatchesWord.Statement (.discard n) := by
  refine ⟨opOf_append _ _, countOf_append _ _, ?_⟩
  simp only [OpcodeRow.selects, Instr.row, encode, Instr.opcode, Instr.count, opcode_masked]; decide

end Sys2Proof.Laws
end

