-- ==== Sys2Proof/Certificates/Slice0/Obligations.lean ====
section
/-! DEFINITION. The statements for the provers, grouped as the spec is: encoding, the step, reset, seed commands, `RANDINIT` and
`MIX`, `REGEN`, `NEXT` and `DISCARD`, and the rules of the whole machine. Each holds for every state, reachable or not. -/

open Sys2Proof Sys2Proof.Machine

/-! ### Encoding -/

/-- Words written out from the encodings of R48 and R57, each with what section 7 of 95_test_vectors.md says it decodes to. -/
def Obligations.SpecWordsDecodeAsListed : Prop :=
  decode 0x010000000000000000#72 = .ok .seed0 ∧
  decode 0x020000000000000024#72 = .ok (.seedb 36) ∧
  decode 0x02FFFFFFFFFFFFFFFF#72 = .ok (.seedb 0xFFFFFFFFFFFFFFFF) ∧
  decode 0x030000000000000100#72 = .ok (.seedw 256) ∧
  decode 0x040000000000000000#72 = .ok .seede ∧
  decode 0x050000000000000000#72 = .ok .next ∧
  decode 0x0600000000000000FF#72 = .ok (.discard 255) ∧
  decode 0x010000000000000001#72 = .error (.countNotZero 0x01 1) ∧
  decode 0x048000000000000000#72 = .error (.countNotZero 0x04 0x8000000000000000) ∧
  decode 0x050000000000000100#72 = .error (.countNotZero 0x05 0x100) ∧
  decode 0x000000000000000000#72 = .error (.reservedOpcode 0x00) ∧
  decode 0x070000000000000000#72 = .error (.reservedOpcode 0x07) ∧
  decode 0x800000000000000005#72 = .error (.reservedOpcode 0x80) ∧
  decode 0xFFFFFFFFFFFFFFFFFF#72 = .error (.reservedOpcode 0xFF)

/-- R47, R48, R56: every command, with every count its word can carry, is decoded from the word it is encoded to. -/
def Obligations.DecodeOfEncodeIsTheCommand : Prop :=
  ∀ i : Instr, i.wellFormed = true → decode (encode i) = .ok i

/-- R47, R56, decision D5: a legal command has exactly one command word. -/
def Obligations.EncodeOfDecodeIsTheWord : Prop :=
  ∀ (cw : BitVec 72) (i : Instr), decode cw = .ok i → encode i = cw

/-- R56: the decoder is the match-and-mask table, and no two of its rows overlap. -/
def Obligations.DecodeAgreesWithMatchAndMask : Prop :=
  (∀ (cw : BitVec 72) (i : Instr), decode cw = .ok i ↔ (i.row.selects cw = true ∧ i.count = countOf cw)) ∧
  opcodeTable.Pairwise (fun r q => ∀ cw, ¬(r.selects cw = true ∧ q.selects cw = true))

/-- R54, R89: which words are reserved, and all that a step does with one: `ERR` with data 0, the generator, `ENT` and every
item on `SDAT` as they were, the core idle and the next command at the head of `CMD`. -/
def Obligations.ReservedWordAnswersErrAndChangesNothing : Prop :=
  (∀ cw : BitVec 72, (∃ e, decode cw = .error e) ↔
    (opOf cw = 0x00 ∨ 0x07 ≤ opOf cw ∨ ((opOf cw = 0x01 ∨ opOf cw = 0x04 ∨ opOf cw = 0x05) ∧ countOf cw ≠ 0))) ∧
  (∀ (s : State) (r : Request) (later : List Request), s.resetDue = false → s.running = none → s.cmd = r :: later →
    (opOf r.cw = 0x00 ∨ 0x07 ≤ opOf r.cw ∨
      ((opOf r.cw = 0x01 ∨ opOf r.cw = 0x04 ∨ opOf r.cw = 0x05) ∧ countOf r.cw ≠ 0)) →
    step s = .next { s with rst := s.rst.tail, cmd := later, sdat := s.sdat ++ r.sdat,
                            rsp := s.rsp ++ [responseWord .err 0] }) ∧
  (∀ (i : Instr) (s t : State), exec i s = .next t → ∀ d : Word, t.rsp ≠ s.rsp ++ [responseWord .err d])

/-! ### The step -/

/-- R7, R46, R56: when no reset event arrives, the core is idle and the word at the head of `CMD` decodes, the step is that
command run on the state with the word taken and its payload standing on `SDAT`. -/
def Obligations.StepRunsTheDecodedCommand : Prop :=
  ∀ (s : State) (r : Request) (later : List Request) (i : Instr),
    s.resetDue = false → s.running = none → s.cmd = r :: later → decode r.cw = .ok i →
    step s = exec i { s with rst := s.rst.tail, cmd := later, sdat := s.sdat ++ r.sdat }

/-- R98: an idle core without a command keeps its state. R108: a core that waits for items that never come takes no further
command and does not complete. That the waiting core keeps its generator, that items standing on `SDAT` do not resume it, and that
a step moves a reset schedule on are the model's choices, not the spec's (DESIGN CHOICE, log entries 8 and 10). -/
def Obligations.IdleOrWaitingCoreKeepsEverything : Prop :=
  ∀ s : State, s.resetDue = false → ((∃ i, s.running = some i) ∨ s.cmd = []) →
    step s = .next { s with rst := s.rst.tail }

/-- R53: the layout of a response, one response for each command that completes, none otherwise, and its data: the word for
`NEXT`, 0 for every other legal command, and `ERR` with 0 for a refused one. -/
def Obligations.OneResponsePerCompletedCommand : Prop :=
  (∀ (st : Status) (d : Word), responseStatus (responseWord st d) = (if st = .ok then 0 else 1) ∧
    responseData (responseWord st d) = d) ∧
  (∀ (s : State) (r : Request) (later : List Request) (e : DecodeError), s.resetDue = false → s.running = none →
    s.cmd = r :: later → decode r.cw = .error e → ∃ t, step s = .next t ∧ t.rsp = s.rsp ++ [responseWord .err 0]) ∧
  (∀ (s t : State), step s = .next t →
    t.rsp = s.rsp ∨ ∃ r x, s.cmd = r :: t.cmd ∧ s.resetDue = false ∧ s.running = none ∧ t.running = none ∧ t.rsp = s.rsp ++ [x]) ∧
  (∀ (s t : State) (r : Request) (later : List Request), s.resetDue = false → s.running = none → s.cmd = r :: later →
    step s = .next t → t.cmd = later ∧ ((∃ x, t.rsp = s.rsp ++ [x]) ∨ (∃ i, t.running = some i))) ∧
  (∀ (i : Instr) (s t : State), exec i s = .next t → i ≠ .next → t.rsp = s.rsp ∨ t.rsp = s.rsp ++ [responseWord .ok 0]) ∧
  (∀ s t : State, exec .next s = .next t → t.rsp = s.rsp ++ [responseWord .ok (t.gen.rsl.read (cursorIndex t.gen.cnt))])

/-- R46, R51, R52: what no command touches but the ones named. No command reorders `CMD` or the reset schedule or changes what
the host and the source will do; only `SEEDB` and `SEEDW` take items from `SDAT`; only `SEEDE` uses `ENT`. -/
def Obligations.CommandFrame : Prop :=
  ∀ (i : Instr) (s t : State), exec i s = .next t →
    t.cmd = s.cmd ∧ t.rst = s.rst ∧ t.sdatLive = s.sdatLive ∧ t.entLive = s.entLive ∧
    ((∀ n, i ≠ .seedb n ∧ i ≠ .seedw n) → t.sdat = s.sdat ∧ t.sdatTaken = s.sdatTaken) ∧
    (i ≠ .seede → t.ent = s.ent ∧ t.entTaken = s.entTaken)

/-- R30: the generator is changed by nothing but a seeding (a seed command or reset) and by extractions. -/
def Obligations.GeneratorChangesOnlyBySeedingOrExtraction : Prop :=
  ∀ s t : State, step s = .next t →
    t.gen = s.gen ∨ (∃ buffer, t.gen = seedWith buffer s.gen) ∨ (∃ n, t.gen = s.gen.advances n)

/-! ### Reset -/

/-- R99, R60: reset is one fixed state, whatever stood before: `RANDINIT` on the all-zero seed. `SEED0` gives the same generator
and responds `OK`, and changes nothing else; a reset event does so without a response and leaves the core idle. -/
def Obligations.ResetIsTheZeroSeedFromAnyState : Prop :=
  (∀ g : Gen, (∀ k, g.rsl.read k = 0) → randinit g = State.reset.gen) ∧
  (∀ s : State, exec .seed0 s = .next { s with gen := State.reset.gen, rsp := s.rsp ++ [responseWord .ok 0] }) ∧
  (∀ s : State, s.resetDue = true →
    ∃ t, step s = .next t ∧ t.gen = State.reset.gen ∧ t.rsp = s.rsp ∧ t.running = none)

/-- R91, R99, R101: a reset event comes before everything: no response, the command in progress and the items standing on `SDAT`
forgotten, the generator in its reset state, the core idle. -/
def Obligations.ResetEventEstablishesTheResetState : Prop :=
  ∀ s : State, s.resetDue = true →
    step s = .next { s with rst := s.rst.tail, gen := State.reset.gen, running := none, sdat := [] }

/-- R100 and 10_state.md section 6 (values the spec marks as computed from its rules). -/
def Obligations.ResetValuesAreTheListedOnes : Prop :=
  State.reset.gen.aa = 0x44D22B48 ∧ State.reset.gen.bb = 0x182600F3 ∧ State.reset.gen.cc = 1 ∧ State.reset.gen.cnt = 256 ∧
  State.reset.gen.rsl.read 255 = 0x182600F3 ∧ State.reset.gen.rsl.read 0 = 0xE76DD339 ∧
  State.reset.gen.mm.read 0 = 0x56047A81 ∧ State.reset.gen.mm.read 255 = 0x71D80509

/-- R82, R102: `NEXT` as the first command after reset responds the document's `0x182600F3`. -/
def Obligations.FirstNextAfterResetReturnsReferenceWord : Prop :=
  ∃ t, step (State.reset.withFetchWord 72 0x050000000000000000) = .next t ∧ t.rsp = [responseWord .ok 0x182600F3] ∧
    t.gen = { State.reset.gen with cnt := 255 }

/-- The invariant of `StepKeepsInvariant` holds after reset. -/
def Obligations.ResetStateMeetsInvariant : Prop := State.reset.Inv

/-- R18, R19, R20, R108: every step keeps `BB = RSL[255]`, `CC = 1` while `CNT = 256`, and that only a seed command that takes
items from a port ever waits. -/
def Obligations.StepKeepsInvariant : Prop :=
  ∀ s t : State, s.Inv → step s = .next t → t.Inv

/-! ### Seed commands -/

/-- R37, R50, R61: `SEEDB` with its whole payload listed: word `j` of the seed buffer is
`s[4j] + 2^8 s[4j+1] + 2^16 s[4j+2] + 2^24 s[4j+3]`, bytes past the end of the seed being 0; all `L` items are consumed; the
response is `OK`, 0; nothing else changes. -/
def Obligations.SeedbSeedsFromItsBytes : Prop :=
  ∀ (n : BitVec 64) (s : State) (bytes : List Byte), bytes.length = n.toNat → s.sdat = bytes.map SdatItem.byte →
    ∃ buffer : Bank 8,
      (∀ j : BitVec 8, (buffer.read j).toNat =
        (bytes.getD (4 * j.toNat) 0).toNat + 2 ^ 8 * (bytes.getD (4 * j.toNat + 1) 0).toNat +
        2 ^ 16 * (bytes.getD (4 * j.toNat + 2) 0).toNat + 2 ^ 24 * (bytes.getD (4 * j.toNat + 3) 0).toNat) ∧
      exec (.seedb n) s = .next { s with gen := seedWith buffer s.gen, sdat := [], sdatTaken := s.sdatTaken + n.toNat,
                                         rsp := s.rsp ++ [responseWord .ok 0] }

/-- R51, R62: `SEEDW` with its whole payload listed: word `j` of the seed buffer is word `j` of the seed, 0 past its end. -/
def Obligations.SeedwSeedsFromItsWords : Prop :=
  ∀ (n : BitVec 64) (s : State) (words : List Word), words.length = n.toNat → s.sdat = words.map SdatItem.word →
    ∃ buffer : Bank 8, (∀ j : BitVec 8, buffer.read j = words.getD j.toNat 0) ∧
      exec (.seedw n) s = .next { s with gen := seedWith buffer s.gen, sdat := [], sdatTaken := s.sdatTaken + n.toNat,
                                         rsp := s.rsp ++ [responseWord .ok 0] }

/-- R52, R63: `SEEDE` with 256 answers: answer `k` is seed word `k`, exactly 256 answers are taken. -/
def Obligations.SeedeSeedsFromTheAnswers : Prop :=
  ∀ s : State, 256 ≤ s.ent.length →
    ∃ buffer : Bank 8, (∀ j : BitVec 8, some (buffer.read j) = s.ent[j.toNat]?) ∧
      exec .seede s = .next { s with gen := seedWith buffer s.gen, ent := s.ent.drop 256, entTaken := s.entTaken + 256,
                                     rsp := s.rsp ++ [responseWord .ok 0] }

/-- R59, R29, R30: what a completed seed command leaves in the generator does not depend on the generator before it. -/
def Obligations.SeedResultIgnoresGeneratorBefore : Prop :=
  ∀ (i : Instr) (s t u : State) (g : Gen), i ≠ .next → (∀ n, i ≠ .discard n) →
    exec i s = .next t → exec i { s with gen := g } = .next u → t.rsp ≠ s.rsp → t.gen = u.gen ∧ u.rsp = t.rsp

/-- R19, R69, R70: right after any seeding `CNT = 256`, `CC = 1`, `BB = RSL[255]`, and one extraction needs no regeneration and
returns `RSL[255]`. -/
def Obligations.SeedingArmsTheCursor : Prop :=
  ∀ (buffer : Bank 8) (g : Gen),
    (seedWith buffer g).cnt = 256 ∧ (seedWith buffer g).cc = 1 ∧ (seedWith buffer g).bb = (seedWith buffer g).rsl.read 255 ∧
    (seedWith buffer g).advance = { seedWith buffer g with cnt := 255 } ∧
    (seedWith buffer g).advance.output = (seedWith buffer g).rsl.read 255

/-- R61, R62: items past the first 1024 bytes or 256 words have no effect on the generator or on the response. -/
def Obligations.ExcessSeedItemsHaveNoEffect : Prop :=
  (∀ (n : BitVec 64) (s t : State) (bytes : List Byte), bytes.length = n.toNat → 1024 ≤ n.toNat →
    exec (.seedb n) { s with sdat := bytes.map SdatItem.byte } = .next t →
    ∃ u, exec (.seedb 1024) { s with sdat := (bytes.take 1024).map SdatItem.byte } = .next u ∧ u.gen = t.gen ∧ u.rsp = t.rsp) ∧
  (∀ (n : BitVec 64) (s t : State) (words : List Word), words.length = n.toNat → 256 ≤ n.toNat →
    exec (.seedw n) { s with sdat := words.map SdatItem.word } = .next t →
    ∃ u, exec (.seedw 256) { s with sdat := (words.take 256).map SdatItem.word } = .next u ∧ u.gen = t.gen ∧ u.rsp = t.rsp)

/-- R60, R61: zero bytes appended to a byte seed change nothing, so that an empty or all-zero seed is the zero seed. -/
def Obligations.TrailingZeroBytesChangeNothing : Prop :=
  ∀ (n m : BitVec 64) (s t u : State) (bytes : List Byte), bytes.length = n.toNat → n.toNat ≤ m.toNat →
    exec (.seedb n) { s with sdat := bytes.map SdatItem.byte } = .next t →
    exec (.seedb m) { s with sdat := (bytes ++ List.replicate (m.toNat - n.toNat) 0).map SdatItem.byte } = .next u →
    t.gen = u.gen ∧ (n = 0 → t.gen = State.reset.gen)

/-- R60, R61, R63: no seed is the word seed of no words, and a byte seed and an entropy seed are the word seeds of the same seed
words. -/
def Obligations.EverySeedFormIsAWordSeed : Prop :=
  (∀ s t u : State, exec .seed0 s = .next t → exec (.seedw 0) { s with sdat := [] } = .next u → t.gen = u.gen) ∧
  (∀ (n : BitVec 64) (s t u : State) (bytes : List Byte), bytes.length = n.toNat →
    exec (.seedb n) { s with sdat := bytes.map SdatItem.byte } = .next t →
    exec (.seedw 256) { s with sdat := ((List.range 256).map (fun j => SdatItem.word (BitVec.ofNat 32
      ((bytes.getD (4 * j) 0).toNat + 2 ^ 8 * (bytes.getD (4 * j + 1) 0).toNat +
       2 ^ 16 * (bytes.getD (4 * j + 2) 0).toNat + 2 ^ 24 * (bytes.getD (4 * j + 3) 0).toNat)))) } = .next u →
    t.gen = u.gen) ∧
  (∀ (s t u : State) (words : List Word), words.length = 256 →
    exec .seede { s with ent := words } = .next t →
    exec (.seedw 256) { s with sdat := words.map SdatItem.word } = .next u → t.gen = u.gen)

/-- The model's reading of R108 with its free items (log entries 5 and 6, DESIGN CHOICE): while the host goes on sending, and the
source goes on answering, `SEEDB` and `SEEDW` complete for every count and `SEEDE` completes, whatever the items are. -/
def Obligations.SeedCommandsCompleteWhileDutiesAreMet : Prop :=
  (∀ (n : BitVec 64) (s : State), s.sdat = [] → s.sdatLive = true →
    (∃ buffer, exec (.seedb n) s = .next { s with gen := seedWith buffer s.gen, sdatTaken := s.sdatTaken + n.toNat,
                                                  rsp := s.rsp ++ [responseWord .ok 0] }) ∧
    (∃ buffer, exec (.seedw n) s = .next { s with gen := seedWith buffer s.gen, sdatTaken := s.sdatTaken + n.toNat,
                                                  rsp := s.rsp ++ [responseWord .ok 0] })) ∧
  (∀ s : State, s.ent = [] → s.entLive = true →
    ∃ buffer, exec .seede s = .next { s with gen := seedWith buffer s.gen, entTaken := s.entTaken + 256,
                                             rsp := s.rsp ++ [responseWord .ok 0] })

/-- R108, I3: a payload shorter than `N` from a host that stops, and a source that stops before its 256th answer, leave the
command waiting: no response, the items that came taken. That the generator keeps its value until then is the model's choice
(DESIGN CHOICE, log entry 8). -/
def Obligations.ShortSupplyLeavesTheCommandWaiting : Prop :=
  (∀ (n : BitVec 64) (s : State) (bytes : List Byte), s.sdat = bytes.map SdatItem.byte → bytes.length < n.toNat →
    s.sdatLive = false →
    exec (.seedb n) s = .next { s with running := some (.seedb n), sdat := [], sdatTaken := s.sdatTaken + bytes.length }) ∧
  (∀ (n : BitVec 64) (s : State) (words : List Word), s.sdat = words.map SdatItem.word → words.length < n.toNat →
    s.sdatLive = false →
    exec (.seedw n) s = .next { s with running := some (.seedw n), sdat := [], sdatTaken := s.sdatTaken + words.length }) ∧
  (∀ s : State, s.ent.length < 256 → s.entLive = false →
    exec .seede s = .next { s with running := some .seede, ent := [], entTaken := s.entTaken + s.ent.length })

/-- R87: no command faults. The only refusals are of `SEEDB` and `SEEDW`, with more items than `N` standing on `SDAT` or an item of
the wrong width. R50 and I5 put these outside the spec, as they do too few items and payload with no seed command; that the first
two are refused, that the third waits and that the fourth goes on is the model's choice (DESIGN CHOICE, log entry 7). -/
def Obligations.OnlyPayloadViolationsAreRefused : Prop :=
  ∀ (i : Instr) (s : State),
    ((∃ t, exec i s = .next t) ∨ exec i s = .refused .payloadViolation) ∧
    (exec i s = .refused .payloadViolation ↔
      (∃ n, i = .seedb n ∧ (n.toNat < s.sdat.length ∨ ∃ x ∈ s.sdat, x.byte? = none)) ∨
      (∃ n, i = .seedw n ∧ (n.toNat < s.sdat.length ∨ ∃ x ∈ s.sdat, x.word? = none)))

/-- R87, R108 (1): a host that keeps the payload protocol is never refused and never meets a fault, at no step. -/
def Obligations.OrderlyHostIsNeverRefused : Prop :=
  ∀ s : State, s.Orderly → ∃ t, step s = .next t ∧ t.Orderly

/-! ### The byte view, `MIX` and `RANDINIT` -/

/-- R34: the indirect lookup is the aligned four-byte read of the byte view, in either byte order, and its three index forms
agree. -/
def Obligations.IndirectLookupIsAlignedByteViewRead : Prop :=
  ∀ (o : ByteOrder) (mm : Bank 8) (v : Word),
    ind mm v = memReadWord o mm (v &&& Config.indMask).toNat ∧
    ind mm v = mm.read (BitVec.ofNat 8 ((v &&& Config.indMask).toNat / 4)) ∧
    ind mm v = mm.read (((v >>> 2) &&& 0xFF#32).setWidth 8) ∧
    ind mm v = mm.read (v.extractLsb' 2 8)

/-- R37: in the byte view of the seed buffer, byte offset `k` holds byte `k` of the seed, in either byte order. -/
def Obligations.OverlayPutsByteAtItsOffset : Prop :=
  ∀ (o : ByteOrder) (bytes : List Byte) (k : Nat), bytes.length ≤ 1024 → k < 1024 →
    memReadByte o (overlayBytes o bytes 0 zeroBuffer) k = bytes.getD k 0

/-- R72 written out, one line per step (general knowledge in the spec, G1; log entry 2). -/
def Obligations.MixIsTheWrittenOutPattern : Prop :=
  ∀ p : Bank 3,
    let p0 := p.read 0; let p1 := p.read 1; let p2 := p.read 2; let p3 := p.read 3
    let p4 := p.read 4; let p5 := p.read 5; let p6 := p.read 6; let p7 := p.read 7
    let p0 := p0 ^^^ (p1 <<< 11); let p3 := p3 + p0; let p1 := p1 + p2
    let p1 := p1 ^^^ (p2 >>> 2);  let p4 := p4 + p1; let p2 := p2 + p3
    let p2 := p2 ^^^ (p3 <<< 8);  let p5 := p5 + p2; let p3 := p3 + p4
    let p3 := p3 ^^^ (p4 >>> 16); let p6 := p6 + p3; let p4 := p4 + p5
    let p4 := p4 ^^^ (p5 <<< 10); let p7 := p7 + p4; let p5 := p5 + p6
    let p5 := p5 ^^^ (p6 >>> 4);  let p0 := p0 + p5; let p6 := p6 + p7
    let p6 := p6 ^^^ (p7 <<< 8);  let p1 := p1 + p6; let p7 := p7 + p0
    let p7 := p7 ^^^ (p0 >>> 9);  let p2 := p2 + p7; let p0 := p0 + p1
    (mix p).read 0 = p0 ∧ (mix p).read 1 = p1 ∧ (mix p).read 2 = p2 ∧ (mix p).read 3 = p3 ∧
    (mix p).read 4 = p4 ∧ (mix p).read 5 = p5 ∧ (mix p).read 6 = p6 ∧ (mix p).read 7 = p7

/-- R73 (3): `MIX` is a bijection on the values of `P`. -/
def Obligations.MixIsABijection : Prop := Function.Bijective mix

/-- R66: `P` after step 2 is a constant (computed by the spec from R65 and R72). -/
def Obligations.ScrambledMixersAreTheConstant : Prop :=
  scramble goldenMixers =
    #v[0x1367DF5A#32, 0x95D90059#32, 0xC3163E4B#32, 0x0F421AD8#32, 0xD92A4A78#32, 0xA51A3C49#32, 0xC4EFEA1B#32, 0x30609119#32]

/-- R67, R68: one absorption group. Word `8g + j` of the source is added to `P[j]`, `MIX` runs once, `P[j]` is stored to
`MM[8g + j]`, and no word of `MM` outside the group changes. -/
def Obligations.AbsorptionGroupAddsMixesAndStores : Prop :=
  ∀ (src : Bank 8) (g : Nat) (s : Absorb), g < 32 →
    ∃ q : Bank 3,
      (∀ j : BitVec 3, q.read j = s.p.read j + src.read (BitVec.ofNat 8 (8 * g + j.toNat))) ∧
      (absorbGroup src g s).p = mix q ∧
      (∀ j : BitVec 3, (absorbGroup src g s).mm.read (BitVec.ofNat 8 (8 * g + j.toNat)) = (mix q).read j) ∧
      (∀ i : BitVec 8, i.toNat / 8 ≠ g → (absorbGroup src g s).mm.read i = s.mm.read i)

/-- R64 to R70: `RANDINIT` is its six steps in order. `P` is eight times the constant, mixed four times; 32 groups take the seed
in `RSL`, 32 more take `MM` as it stands, `P` carried from group to group and from pass to pass; one `REGEN` starts from
`AA = BB = CC = 0` and that `MM`; `CNT` is armed at 256. A seeding is `RANDINIT` with the seed buffer in `RSL` (R59). -/
def Obligations.RandinitRunsItsStepsInOrder : Prop :=
  (∀ g : Gen, ∃ (p : Bank 3) (pass1 pass2 : Nat → Absorb),
    (∀ j, p.read j = 0x9E3779B9#32) ∧
    pass1 0 = { p := mix (mix (mix (mix p))), mm := g.mm } ∧
    (∀ k, k < 32 → pass1 (k + 1) = absorbGroup g.rsl k (pass1 k)) ∧
    pass2 0 = pass1 32 ∧
    (∀ k, k < 32 → pass2 (k + 1) = absorbGroup (pass2 k).mm k (pass2 k)) ∧
    randinit g = { regen { g with mm := (pass2 32).mm, aa := 0, bb := 0, cc := 0 } with cnt := 256 }) ∧
  (∀ (buffer : Bank 8) (g : Gen), seedWith buffer g = randinit { g with rsl := buffer })

/-! ### The regeneration cycle -/

/-- R77, R80: one rng-step, its six actions in order, the second lookup seeing the word just written, and its frame: no other
word of `MM` or `RSL` changes (the grouping of the `a` update is general knowledge in the spec, G2; log entry 3). -/
def Obligations.RngStepValuesAndFrame : Prop :=
  ∀ (i : BitVec 8) (c : RegenLocals),
    let x := c.mm.read i
    let shifted := if i.toNat % 4 = 0 then c.a <<< 13 else if i.toNat % 4 = 1 then c.a >>> 6
      else if i.toNat % 4 = 2 then c.a <<< 2 else c.a >>> 16
    let a := (c.a ^^^ shifted) + c.mm.read (BitVec.ofNat 8 ((i.toNat + 128) % 256))
    let y := c.mm.read (x.extractLsb' 2 8) + a + c.b
    let seen := if y.extractLsb' 10 8 = i then y else c.mm.read (y.extractLsb' 10 8)
    let t := rngStep i c
    t.a = a ∧ t.b = seen + x ∧ t.mm.read i = y ∧ t.rsl.read i = seen + x ∧
    ∀ j, j ≠ i → t.mm.read j = c.mm.read j ∧ t.rsl.read j = c.rsl.read j

/-- R80 (4), R81: step `i` of a cycle reads the `MM[i]` of before the cycle, and what it writes to `MM[i]` and `RSL[i]` stands
to the cycle's end: each word is written exactly once. -/
def Obligations.RegenWritesEachWordOnce : Prop :=
  ∀ (g : Gen) (i : Nat), i < 256 →
    (rngSteps i (regenStart g)).mm.read (BitVec.ofNat 8 i) = g.mm.read (BitVec.ofNat 8 i) ∧
    (regen g).mm.read (BitVec.ofNat 8 i) = (rngSteps (i + 1) (regenStart g)).mm.read (BitVec.ofNat 8 i) ∧
    (regen g).rsl.read (BitVec.ofNat 8 i) = (rngSteps (i + 1) (regenStart g)).b

/-- R105: in the second half pass the paired read returns the word that step `i - 128` of the same cycle wrote. -/
def Obligations.SecondHalfReadsRewrittenWords : Prop :=
  ∀ (g : Gen) (i : Nat), 128 ≤ i → i < 256 →
    (rngSteps i (regenStart g)).mm.read (pairedIndex (BitVec.ofNat 8 i)) =
      (rngSteps (i - 128 + 1) (regenStart g)).mm.read (BitVec.ofNat 8 (i - 128))

/-- R78: in the first half pass the paired read returns a word of before the cycle. -/
def Obligations.FirstHalfReadsEarlierWords : Prop :=
  ∀ (g : Gen) (i : Nat), i < 128 →
    (rngSteps i (regenStart g)).mm.read (pairedIndex (BitVec.ofNat 8 i)) = g.mm.read (BitVec.ofNat 8 (i + 128))

/-- R17, R18, R76, R78, R79, R81: a cycle starts with `a = AA` and `b = BB + (CC + 1)`; each step goes on from the `a`, `b` and stores
the one before it left; after the last, `AA = a`, `BB = b`. After `REGEN`, `BB = RSL[255]`, `CC` is one more mod 2^32 and `CNT` is as
it was; `RSL` is never read. -/
def Obligations.RegenSummary : Prop :=
  (∀ g : Gen, (regenStart g).a = g.aa ∧ (regenStart g).b = g.bb + (g.cc + 1) ∧ (regenStart g).mm = g.mm ∧
    (regenStart g).rsl = g.rsl) ∧
  (∀ c : RegenLocals, rngSteps 0 c = c ∧ ∀ i, rngSteps (i + 1) c = rngStep (BitVec.ofNat 8 i) (rngSteps i c)) ∧
  (∀ g : Gen, (regen g).aa = (rngSteps 256 (regenStart g)).a ∧ (regen g).bb = (rngSteps 256 (regenStart g)).b ∧
    (regen g).mm = (rngSteps 256 (regenStart g)).mm ∧ (regen g).rsl = (rngSteps 256 (regenStart g)).rsl) ∧
  ∀ (g : Gen) (junk : Bank 8) (c : Cursor),
    (regen g).bb = (regen g).rsl.read 255 ∧ (regen g).cc.toNat = (g.cc.toNat + 1) % 2 ^ 32 ∧ (regen g).cnt = g.cnt ∧
    regen { g with rsl := junk, cnt := c } = { regen g with cnt := c }

/-! ### `NEXT` and `DISCARD` -/

/-- R82, R86, R107: `NEXT` in each of its two branches, with the whole next state: with `CNT > 0` only `CNT` and the response
change, and the word is `RSL` at the cursor just written; with `CNT = 0` the cycle runs first and the new `RSL[255]` is returned. -/
def Obligations.NextReturnsTheWordAtTheMovedCursor : Prop :=
  ∀ s : State,
    (s.gen.cnt = 0 → exec .next s = .next { s with gen := { regen s.gen with cnt := 255 },
                                                   rsp := s.rsp ++ [responseWord .ok ((regen s.gen).rsl.read 255)] }) ∧
    (∀ c : Cursor, c.val + 1 = s.gen.cnt.val →
      exec .next s = .next { s with gen := { s.gen with cnt := c },
                                    rsp := s.rsp ++ [responseWord .ok (s.gen.rsl.read (BitVec.ofNat 8 c.val))] })

/-- R83: from a generator with `CNT = 256`, after `256 q + r` extractions, the next `NEXT` returns `RSL[255 - r]` of block `q`,
leaves `CNT = 255 - r`, and `CC` has counted `q` cycles. -/
def Obligations.WordsAreEmittedBlockByBlockFromTheEnd : Prop :=
  ∀ (g : Gen) (s : State) (q r : Nat) (c : Cursor), g.cnt = 256 → r < 256 → c.val = 255 - r →
    s.gen = g.advances (256 * q + r) →
    (regen^[q] g).cc = g.cc + BitVec.ofNat 32 q ∧
    exec .next s = .next { s with gen := { regen^[q] g with cnt := c },
                                  rsp := s.rsp ++ [responseWord .ok ((regen^[q] g).rsl.read (BitVec.ofNat 8 (255 - r)))] }

/-- R58, R85: `DISCARD n` completes for every `n`, and its state is that of `n` times `NEXT` with one response, `OK` and 0. -/
def Obligations.DiscardIsRepeatedNext : Prop :=
  ∀ (n : BitVec 64) (s : State), ∃ u, nextLoop n.toNat s = .next u ∧ u.rsp.length = s.rsp.length + n.toNat ∧
    exec (.discard n) s = .next { s with gen := u.gen, rsp := s.rsp ++ [responseWord .ok 0] }

/-- R85, the closed forms: with `n` at most `CNT` only the cursor moves; otherwise `1 + (n - c - 1) div 256` cycles run. -/
def Obligations.DiscardRunsTheStatedNumberOfCycles : Prop :=
  ∀ (n : BitVec 64) (s : State) (c : Cursor),
    (n.toNat ≤ s.gen.cnt.val → c.val = s.gen.cnt.val - n.toNat →
      exec (.discard n) s = .next { s with gen := { s.gen with cnt := c }, rsp := s.rsp ++ [responseWord .ok 0] }) ∧
    (s.gen.cnt.val < n.toNat → c.val = 255 - (n.toNat - s.gen.cnt.val - 1) % 256 →
      exec (.discard n) s = .next { s with gen := { regen^[1 + (n.toNat - s.gen.cnt.val - 1) / 256] s.gen with cnt := c },
                                           rsp := s.rsp ++ [responseWord .ok 0] })

/-- R85: `DISCARD n` then `NEXT` gives the same word and the same generator as `n + 1` times `NEXT`, keeping only the last word. -/
def Obligations.DiscardThenNextIsTheLastOfNexts : Prop :=
  ∀ (n : BitVec 64) (s : State), ∃ t u v, exec (.discard n) s = .next t ∧ exec .next t = .next u ∧
    nextLoop (n.toNat + 1) s = .next v ∧ u.gen = v.gen ∧ u.rsp.getLast? = v.rsp.getLast?

/-! ### Equality and future outputs -/

/-- R22: equality is equality of the six fields, word for word; and two generators that differ only in consumed words of `RSL`
give the same outputs for ever, and are still unequal. -/
def Obligations.ConsumedWordsNeverMatterButCountInEquality : Prop :=
  (∀ g h : Gen, g.equal h = true ↔
    ((∀ i, g.rsl.read i = h.rsl.read i) ∧ (∀ i, g.mm.read i = h.mm.read i) ∧ g.aa = h.aa ∧ g.bb = h.bb ∧ g.cc = h.cc ∧
      g.cnt = h.cnt)) ∧
  (∀ g h : Gen, g.mm = h.mm → g.aa = h.aa → g.bb = h.bb → g.cc = h.cc → g.cnt = h.cnt →
    (∀ i : BitVec 8, i.toNat < g.cnt.val → g.rsl.read i = h.rsl.read i) →
    (∀ n, (g.advances (n + 1)).output = (h.advances (n + 1)).output) ∧
    ((∃ i : BitVec 8, g.rsl.read i ≠ h.rsl.read i) → g.equal h = false))
end

