-- ==== Sys2Proof/Tests/Slice0.lean ====
section
/-! SUPPORT. The model's own tests and the witnesses of the statements' hypotheses. Every expected value is the spec's: the
section of 95_test_vectors.md (or the rule's worked example) stands with each. `test_` names a check of the model, `witness_<O>`
a state and operands that meet all hypotheses of the statement `Obligations.<O>` together, clause by clause, at the bounds. -/

namespace Sys2Proof.Tests

open Sys2Proof.Machine Sys2Proof.Laws

/-! ### Helpers -/

/-- A small idle state; its generator is the all-zero record, so nothing large is computed. -/
def blank : State :=
  { gen := Gen.beforeReset, running := none, cmd := [], sdat := [], sdatLive := true, sdatTaken := 0, ent := [],
    entLive := true, entTaken := 0, rsp := [], rst := [] }

/-- `blank` with one request at the head of `CMD`. -/
def asked (cw : BitVec 72) (items : List SdatItem) : State := { blank with cmd := [{ cw := cw, sdat := items }] }

/-- `blank` with another cursor. -/
def atCursor (c : Cursor) : State := { blank with gen := { Gen.beforeReset with cnt := c } }

/-- The step or command goes on. -/
def goesOn : Result → Bool
  | .next _ => true
  | .fault _ => false
  | .refused _ => false

/-- The step or command is refused. -/
def isRefused : Result → Bool
  | .next _ => false
  | .fault _ => false
  | .refused _ => true

/-- The responses after a step. -/
def responses : Result → List (BitVec 33)
  | .next s => s.rsp
  | .fault _ => []
  | .refused _ => []

/-- A field of the state after a step. -/
def after {α : Type} (f : State → α) : Result → Option α
  | .next s => some (f s)
  | .fault _ => none
  | .refused _ => none

/-! ### Well-formedness of a payload: an ill-formed term for each check (R50, R51) -/

theorem test_wf_seed0_takes_no_payload : Instr.seed0.payloadFits [.byte 0] = false := by decide
theorem test_wf_seedb_short : (Instr.seedb 2).payloadFits [.byte 1] = false := by decide
theorem test_wf_seedb_width : (Instr.seedb 1).payloadFits [.word 1] = false := by decide
theorem test_wf_seedw_long : (Instr.seedw 0).payloadFits [.word 1] = false := by decide
theorem test_wf_seedw_width : (Instr.seedw 1).payloadFits [.byte 1] = false := by decide
theorem test_wf_seede_takes_no_payload : Instr.seede.payloadFits [.word 0] = false := by decide
theorem test_wf_next_takes_no_payload : Instr.next.payloadFits [.byte 0] = false := by decide
theorem test_wf_discard_takes_no_payload : (Instr.discard 1).payloadFits [.word 0] = false := by decide
theorem test_wf_exact_payload : (Instr.seedb 2).payloadFits [.byte 1, .byte 2] = true := by decide
theorem test_wf_reserved_announces_none : Request.honoured { cw := 0x070000000000000000#72, sdat := [.byte 0] } = false := by decide

/-! ### Decoding: words written out from R47 and R48, OP in bits 71 to 64 (section 7) -/

theorem test_decode_seed0 : decodeTableWord 72 0x010000000000000000 = some .seed0 := by decide
theorem test_decode_seedb : decodeTableWord 72 0x020000000000000024 = some (.seedb 36) := by decide
theorem test_decode_seedw : decodeTableWord 72 0x030000000000000100 = some (.seedw 256) := by decide
theorem test_decode_seede : decodeTableWord 72 0x040000000000000000 = some .seede := by decide
theorem test_decode_next : decodeTableWord 72 0x050000000000000000 = some .next := by decide
theorem test_decode_discard : decodeTableWord 72 0x0600000000000000FF = some (.discard 255) := by decide
theorem test_reserved_opcode : decode 0x800000000000000005#72 = .error (.reservedOpcode 0x80) := by decide
theorem test_reserved_count : decode 0x048000000000000000#72 = .error (.countNotZero 0x04 0x8000000000000000) := by decide

/-! ### The first step after reset, and the layout of a response (R53) -/

theorem test_run_seed0 : goesOn (step (State.reset.withFetchWord 72 0x010000000000000000)) = true := rfl
theorem test_run_seedb : goesOn (step (State.reset.withFetchWord 72 0x02FFFFFFFFFFFFFFFF)) = true := by decide +kernel
theorem test_run_seedw : goesOn (step (State.reset.withFetchWord 72 0x03FFFFFFFFFFFFFFFF)) = true := by decide +kernel
theorem test_run_seede : goesOn (step (State.reset.withFetchWord 72 0x040000000000000000)) = true := by decide +kernel
theorem test_run_next : goesOn (step (State.reset.withFetchWord 72 0x050000000000000000)) = true := rfl
theorem test_run_discard : goesOn (step (State.reset.withFetchWord 72 0x06FFFFFFFFFFFFFFFF)) = true := rfl

/-- Section 7 and R53: a refused word answers `ST` = 1, `DATA` = 0. -/
theorem test_reserved_answers_err :
    responses (step (State.reset.withFetchWord 72 0x050000000000000100)) = [0x100000000#33] := by decide +kernel

/-- R53: `ST` is bit 32. -/
theorem test_response_layout : responseWord .ok 0xFFFFFFFF = 0x0FFFFFFFF#33 := by decide

/-- R58: `NEWENTROPY` is another spelling of `SEEDE`. -/
theorem test_pseudo_expand : PseudoCommand.newEntropy.expand = .seede := rfl

/-- R50: more items than `N`; the host's violation is refused. -/
theorem test_seedb_violation : isRefused (step (asked 0x020000000000000001#72 [.byte 1, .byte 2])) = true := by decide +kernel

/-- R51: an item of the wrong width. -/
theorem test_seedw_violation : isRefused (step (asked 0x030000000000000001#72 [.byte 1])) = true := by decide +kernel

/-- R108 (1): a short payload from a host that stops: no response, the core waits. -/
theorem test_seedb_waits :
    after (fun t => (t.running, t.rsp)) (step { asked 0x020000000000000002#72 [.byte 1] with sdatLive := false }) =
      some (some (.seedb 2), []) := by decide +kernel

/-- R108 (2): 255 answers of the entropy source are one too few. -/
theorem test_seede_waits :
    after (fun t => t.running) (step { asked 0x040000000000000000#72 [] with ent := List.replicate 255 0, entLive := false }) =
      some (some .seede) := by decide +kernel

/-! ### The byte view and the seed buffers -/

/-- Section 5.2: "abcde", little-endian. -/
theorem test_byteBuffer_abcde :
    (byteBuffer [0x61, 0x62, 0x63, 0x64, 0x65]).read 0 = 0x64636261 ∧ (byteBuffer [0x61, 0x62, 0x63, 0x64, 0x65]).read 1 = 0x65 := by
  decide +kernel

/-- R37: the big-endian overlay, which is not this hardware's, puts byte 0 in bits 31 to 24. -/
theorem test_overlay_big : (overlayBytes .big [0x61, 0x62, 0x63, 0x64] 0 zeroBuffer).read 0 = 0x61626364 := by decide +kernel

/-- R13, R37: one byte lane replaced, the other three kept. -/
theorem test_memWriteByte : (memWriteByte .little (Bank.fill 8 0xFFFFFFFF) 5 0).read 1 = 0xFFFF00FF := by decide +kernel

/-- Section 5.3: the buffer of three words. -/
theorem test_wordBuffer : (wordBuffer [1, 2, 3]).read 2 = 3 ∧ (wordBuffer [1, 2, 3]).read 3 = 0 := by decide +kernel

/-- R75: `IND` at `0x12345678` selects word 158, and `0x400` word 0; R75: `y[17:10]` of the second lookup (section 3.1). -/
theorem test_ind_index :
    indIndex 0x12345678 = 158 ∧ indIndex 0x400 = 0 ∧ indIndex 0xFFFFFFFF = 255 ∧ indIndex (0x12345678 >>> 8) = 21 := by decide

/-- R34: the same through the byte view, in `MemRead(x & 0x3FC, 4)`. -/
theorem test_ind_byte_view : memReadWord .little ((Bank.fill 8 0).write 158 0x12345678) 632 = 0x12345678 := by decide +kernel

/-- R35: `i + 128` in the first half, `i - 128` in the second. -/
theorem test_paired_index : pairedIndex 127 = 255 ∧ pairedIndex 128 = 0 := by decide

/-! ### `MIX`, `RNGSTEP`, `REGEN` -/

/-- Section 2: 1, 2, ..., 8. -/
theorem test_mix_one_to_eight :
    mix #v[1, 2, 3, 4, 5, 6, 7, 8] =
      #v[0x04795161, 0x04691d3b, 0x40647e64, 0x0000100f, 0x40442d18, 0x00102425, 0x04691d36, 0x4054695c] := by decide +kernel

/-- Section 2: all `80000000`, left shifts lose the bit. -/
theorem test_mix_top_bits :
    mix (Bank.fill 3 0x80000000) =
      #v[0x02014a00, 0x6000a000, 0x4251aa55, 0xa000a000, 0xa0000000, 0x2200aa00, 0x4000a000, 0xc251aa55] := by decide +kernel

/-- 41_randinit.md, worked example (zero seed): `MM[0]` after the first group of the first pass is `0x06cca0e5`. -/
theorem test_absorb_first_group :
    (absorbGroup zeroBuffer 0 { p := scramble goldenMixers, mm := zeroBuffer }).mm.read 0 = 0x06cca0e5 := by decide +kernel

/-- R77, worked example: steps 0 and 1 on an all-zero `MM` with `b = 1`; each lookup sees the word just written. -/
theorem test_rngStep_read_after_write :
    let c := rngStep 1 (rngStep 0 { a := 0, b := 1, mm := zeroBuffer, rsl := zeroBuffer })
    c.mm.read 0 = 1 ∧ c.mm.read 1 = 2 ∧ c.b = 1 ∧ c.rsl.read 1 = 1 := by decide +kernel

/-- Cells of all zeros hold the all-zero generator. -/
theorem zero_cells : Eval.Sim 0 (Bank.fill 3 0) Gen.beforeReset.mm Gen.beforeReset.rsl Gen.beforeReset.aa Gen.beforeReset.bb := by
  have z : ∀ i, Eval.rd 0 i = 0 := by intro i; simp [Eval.rd]
  constructor
  · intro i; simp [z]
  · intro i; simp [z, Gen.beforeReset]
  · intro i; simp [z, Gen.beforeReset]
  · simp [z, Gen.beforeReset]
  · simp [z, Gen.beforeReset]

/-- Section 3.2: `REGEN` on the all-zero state. -/
theorem test_regen_all_zero :
    (regen Gen.beforeReset).aa = 0xd4caab06 ∧ (regen Gen.beforeReset).bb = 2 ∧ (regen Gen.beforeReset).rsl.read 254 = 0xdb1e53e9 := by
  have h := Eval.sim_regen Gen.beforeReset zero_cells
  have k : Eval.rd (Eval.regenN 0 0) 520 = 0xd4caab06 ∧ Eval.rd (Eval.regenN 0 0) 521 = 2 ∧
      Eval.rd (Eval.regenN 0 0) (264 + 254) = 0xdb1e53e9 := by decide +kernel
  exact ⟨BitVec.eq_of_toNat_eq (h.a.symm.trans k.1), BitVec.eq_of_toNat_eq (h.b.symm.trans k.2.1),
    BitVec.eq_of_toNat_eq ((h.rsl 254).symm.trans k.2.2)⟩

/-! ### Seeded generators -/

/-- Section 4.2: `RSL[254]` of the reset state, the second output; its `CC` and `CNT` (R100). -/
theorem test_reset_generator :
    State.reset.gen.rsl.read 254 = 0x300b4a8d ∧ State.reset.gen.cc = 1 ∧ State.reset.gen.cnt = 256 := by
  obtain ⟨p, h⟩ := Eval.sim_randinit { Gen.beforeReset with rsl := zeroBuffer } zero_cells
  have k : Eval.rd (Eval.randinitN 0) (264 + 254) = 0x300b4a8d := by decide +kernel
  exact ⟨BitVec.eq_of_toNat_eq ((h.rsl 254).symm.trans k), rfl, rfl⟩

/-- Sections 6.1 and 4.4: the first cycle after reset; its `RSL[255]` is output 257 and its `RSL[0]` output 512. -/
theorem test_second_block :
    (regen State.reset.gen).rsl.read 255 = 0x7a68710f ∧ (regen State.reset.gen).rsl.read 0 = 0xf650e4c8 := by
  obtain ⟨p, h⟩ := Eval.sim_randinit { Gen.beforeReset with rsl := zeroBuffer } zero_cells
  have h' := Eval.sim_regen State.reset.gen h
  have k : Eval.rd (Eval.regenN 1 (Eval.randinitN 0)) (264 + 255) = 0x7a68710f ∧
      Eval.rd (Eval.regenN 1 (Eval.randinitN 0)) (264 + 0) = 0xf650e4c8 := by decide +kernel
  exact ⟨BitVec.eq_of_toNat_eq ((h'.rsl 255).symm.trans k.1), BitVec.eq_of_toNat_eq ((h'.rsl 0).symm.trans k.2)⟩

/-- Section 5.1: `SEEDW 00000001`. -/
theorem test_seedw_one : (seedWith (wordBuffer [1]) Gen.beforeReset).rsl.read 255 = 0x4baac015 := by
  obtain ⟨p, h⟩ := Eval.sim_randinit { Gen.beforeReset with rsl := wordBuffer [1] } (zero_cells.writeRSL 0 1)
  have k : Eval.rd (Eval.randinitN (Eval.wr 0 (264 + 0) 1)) (264 + 255) = 0x4baac015 := by decide +kernel
  exact BitVec.eq_of_toNat_eq ((h.rsl 255).symm.trans k)

/-- R82: `CNT` = 1 becomes 0, no regeneration; `CNT` = 0 regenerates (`CC` one more) and leaves 255. -/
theorem test_next_cursor :
    after (fun t => (t.gen.cnt, t.gen.cc)) (execNext (atCursor 1)) = some (0, 0) ∧
    after (fun t => (t.gen.cnt, t.gen.cc)) (execNext (atCursor 0)) = some (255, 1) := by decide +kernel

/-- R85: `DISCARD 257` from `CNT` = 256 runs one cycle; `DISCARD 256` none (section 6.2). -/
theorem test_discard_cursor :
    after (fun t => (t.gen.cnt, t.gen.cc)) (execDiscard 257 (atCursor 256)) = some (255, 1) ∧
    after (fun t => (t.gen.cnt, t.gen.cc)) (execDiscard 256 (atCursor 256)) = some (0, 0) := by decide +kernel

/-! ### Witnesses -/

theorem witness_DecodeOfEncodeIsTheCommand : (Instr.discard 0xFFFFFFFFFFFFFFFF).wellFormed = true := rfl

theorem witness_EncodeOfDecodeIsTheWord : decode 0x0600000000000000FF#72 = .ok (.discard 255) := by decide

/-- One reserved word for each way of R54, at the ends of its ranges, and a command that goes on. -/
theorem witness_ReservedWordAnswersErrAndChangesNothing :
    ((asked 0x000000000000000000#72 []).resetDue = false ∧ (asked 0x000000000000000000#72 []).running = none ∧
      opOf 0x000000000000000000#72 = 0x00) ∧
    0x07 ≤ opOf 0x070000000000000000#72 ∧ 0x07 ≤ opOf 0xFFFFFFFFFFFFFFFFFF#72 ∧
    (opOf 0x010000000000000001#72 = 0x01 ∧ countOf 0x010000000000000001#72 ≠ 0) ∧
    (opOf 0x048000000000000000#72 = 0x04 ∧ countOf 0x048000000000000000#72 ≠ 0) ∧
    (opOf 0x050000000000000001#72 = 0x05 ∧ countOf 0x050000000000000001#72 ≠ 0) ∧
    ∃ t, exec .next blank = .next t :=
  ⟨by decide, by decide, by decide, by decide, by decide, by decide, _, rfl⟩

theorem witness_StepRunsTheDecodedCommand :
    (asked 0x050000000000000000#72 []).resetDue = false ∧ (asked 0x050000000000000000#72 []).running = none ∧
    (asked 0x050000000000000000#72 []).cmd = [{ cw := 0x050000000000000000#72, sdat := [] }] ∧
    decode 0x050000000000000000#72 = .ok .next := by decide

/-- An idle core, and a waiting one. -/
theorem witness_IdleOrWaitingCoreKeepsEverything :
    (blank.resetDue = false ∧ blank.cmd = []) ∧
    (({ blank with running := some .seede } : State).resetDue = false ∧
      ∃ i, ({ blank with running := some .seede } : State).running = some i) :=
  ⟨by decide, by decide, .seede, rfl⟩

/-- A refused word; a command that completes with a response; one that is `NEXT`; one that is not. -/
theorem witness_OneResponsePerCompletedCommand :
    (blank.resetDue = false ∧ decode 0x000000000000000000#72 = .error (.reservedOpcode 0)) ∧
    ((asked 0x050000000000000000#72 []).resetDue = false ∧ (asked 0x050000000000000000#72 []).running = none ∧
      ∃ t, step (asked 0x050000000000000000#72 []) = .next t) ∧
    (∃ t, exec .seed0 blank = .next t) ∧ ∃ t, exec .next blank = .next t :=
  ⟨by decide, ⟨rfl, rfl, _, rfl⟩, ⟨_, rfl⟩, _, rfl⟩

/-- Each command goes on from `blank`. -/
theorem witness_CommandFrame :
    (∃ t, exec .seed0 blank = .next t) ∧ (∃ t, exec (.seedb 0) blank = .next t) ∧ (∃ t, exec (.seedw 0) blank = .next t) ∧
    (∃ t, exec .seede blank = .next t) ∧ (∃ t, exec .next blank = .next t) ∧ ∃ t, exec (.discard 3) blank = .next t :=
  ⟨⟨_, rfl⟩, ⟨_, rfl⟩, ⟨_, rfl⟩, ⟨_, rfl⟩, ⟨_, rfl⟩, _, rfl⟩

theorem witness_GeneratorChangesOnlyBySeedingOrExtraction : ∃ t, step (asked 0x060000000000000003#72 []) = .next t := ⟨_, rfl⟩

/-- A generator with a zero seed in `RSL`, and a state in which a reset event arrives. -/
theorem witness_ResetIsTheZeroSeedFromAnyState :
    (∀ k, Gen.beforeReset.rsl.read k = 0) ∧ ({ blank with rst := [true] } : State).resetDue = true :=
  ⟨fun k => zeroBuffer_read k, rfl⟩

theorem witness_ResetEventEstablishesTheResetState :
    ({ asked 0x050000000000000000#72 [] with running := some .seede, rst := [true] } : State).resetDue = true := rfl

theorem witness_StepKeepsInvariant : (asked 0x050000000000000000#72 []).Inv ∧ ∃ t, step (asked 0x050000000000000000#72 []) = .next t :=
  ⟨⟨⟨(zeroBuffer_read 255).symm, by decide⟩, rfl⟩, _, rfl⟩

/-- The empty payload, one item, and one item more than is used. -/
theorem witness_SeedbSeedsFromItsBytes :
    (([] : List Byte).length = (0 : BitVec 64).toNat ∧ blank.sdat = ([] : List Byte).map SdatItem.byte) ∧
    ([0x61] : List Byte).length = (1 : BitVec 64).toNat ∧
    (List.replicate 1025 (7 : Byte)).length = (1025 : BitVec 64).toNat :=
  ⟨⟨rfl, rfl⟩, rfl, by rw [List.length_replicate]; rfl⟩

theorem witness_SeedwSeedsFromItsWords :
    (([] : List Word).length = (0 : BitVec 64).toNat ∧ blank.sdat = ([] : List Word).map SdatItem.word) ∧
    ([0x61] : List Word).length = (1 : BitVec 64).toNat ∧ (List.replicate 257 (7 : Word)).length = (257 : BitVec 64).toNat :=
  ⟨⟨rfl, rfl⟩, rfl, by rw [List.length_replicate]; rfl⟩

theorem witness_SeedeSeedsFromTheAnswers : 256 ≤ ({ blank with ent := List.replicate 256 7 } : State).ent.length := by
  rw [List.length_replicate]

theorem witness_SeedResultIgnoresGeneratorBefore :
    Instr.seed0 ≠ .next ∧ (∀ n, Instr.seed0 ≠ .discard n) ∧
    ∃ t u, exec .seed0 blank = .next t ∧ exec .seed0 { blank with gen := (atCursor 7).gen } = .next u ∧ t.rsp ≠ blank.rsp :=
  ⟨Instr.noConfusion, fun _ => Instr.noConfusion, _, _, rfl, rfl, by rw [State.seedAndRespond_rsp]; decide⟩

/-- A whole listed payload lets the command complete. -/
theorem seedb_goes_on (n : BitVec 64) (s : State) (bytes : List Byte) (h : bytes.length = n.toNat) :
    ∃ t, exec (.seedb n) { s with sdat := bytes.map SdatItem.byte } = .next t := by
  rw [exec_seedb, execSeedb, readItems_byte, ← h, supply_exact]
  exact ⟨_, rfl⟩

theorem seedw_goes_on (n : BitVec 64) (s : State) (words : List Word) (h : words.length = n.toNat) :
    ∃ t, exec (.seedw n) { s with sdat := words.map SdatItem.word } = .next t := by
  rw [exec_seedw, execSeedw, readItems_word, ← h, supply_exact]
  exact ⟨_, rfl⟩

/-- The bound itself and one more, for bytes and for words. -/
theorem witness_ExcessSeedItemsHaveNoEffect :
    (∃ bytes : List Byte, bytes.length = (1024 : BitVec 64).toNat ∧ 1024 ≤ (1024 : BitVec 64).toNat ∧
      ∃ t, exec (.seedb 1024) { blank with sdat := bytes.map SdatItem.byte } = .next t) ∧
    (∃ words : List Word, words.length = (257 : BitVec 64).toNat ∧ 256 ≤ (257 : BitVec 64).toNat ∧
      ∃ t, exec (.seedw 257) { blank with sdat := words.map SdatItem.word } = .next t) := by
  have hb : (List.replicate 1024 (7 : Byte)).length = (1024 : BitVec 64).toNat := by rw [List.length_replicate]; rfl
  have hw : (List.replicate 257 (7 : Word)).length = (257 : BitVec 64).toNat := by rw [List.length_replicate]; rfl
  exact ⟨⟨_, hb, by rw [← hb, List.length_replicate], seedb_goes_on _ _ _ hb⟩,
    _, hw, by rw [← hw, List.length_replicate]; omega, seedw_goes_on _ _ _ hw⟩

/-- The empty seed, and one zero byte after it. -/
theorem witness_TrailingZeroBytesChangeNothing :
    ([] : List Byte).length = (0 : BitVec 64).toNat ∧ (0 : BitVec 64).toNat ≤ (1 : BitVec 64).toNat ∧
    (∃ t, exec (.seedb 0) { blank with sdat := ([] : List Byte).map SdatItem.byte } = .next t) ∧
    ∃ u, exec (.seedb 1) { blank with sdat := (([] : List Byte) ++ List.replicate ((1 : BitVec 64).toNat - (0 : BitVec 64).toNat) 0).map SdatItem.byte } = .next u :=
  ⟨rfl, by decide, ⟨_, rfl⟩, _, rfl⟩

/-- No seed, a byte seed and an entropy seed with their word seeds. -/
theorem witness_EverySeedFormIsAWordSeed :
    ((∃ t, exec .seed0 blank = .next t) ∧ ∃ u, exec (.seedw 0) { blank with sdat := [] } = .next u) ∧
    ((∃ t, exec (.seedb 1) { blank with sdat := ([7] : List Byte).map SdatItem.byte } = .next t) ∧
      ∀ f : Nat → Word, ∃ u, exec (.seedw 256) { blank with sdat := (List.range 256).map (fun j => SdatItem.word (f j)) } = .next u) ∧
    ∃ words : List Word, words.length = 256 ∧ (∃ t, exec .seede { blank with ent := words } = .next t) ∧
      ∃ u, exec (.seedw 256) { blank with sdat := words.map SdatItem.word } = .next u := by
  refine ⟨⟨⟨_, rfl⟩, _, rfl⟩, ⟨seedb_goes_on 1 blank [7] rfl, fun f => ?_⟩, List.replicate 256 7, List.length_replicate, ?_,
    seedw_goes_on 256 blank _ (by rw [List.length_replicate]; rfl)⟩
  · have := seedw_goes_on 256 blank ((List.range 256).map f) (by rw [List.length_map, List.length_range]; rfl)
    rwa [List.map_map] at this
  · rw [exec_seede, execSeede, entropyWords, if_pos (.inr rfl)]
    exact ⟨_, rfl⟩

theorem witness_SeedCommandsCompleteWhileDutiesAreMet :
    blank.sdat = [] ∧ blank.sdatLive = true ∧ blank.ent = [] ∧ blank.entLive = true := by decide

/-- No item of one, and no answer of 256. -/
theorem witness_ShortSupplyLeavesTheCommandWaiting :
    (({ blank with sdatLive := false } : State).sdat = ([] : List Byte).map SdatItem.byte ∧
      ([] : List Byte).length < (1 : BitVec 64).toNat ∧ ({ blank with sdatLive := false } : State).sdatLive = false) ∧
    (({ blank with sdatLive := false } : State).sdat = ([] : List Word).map SdatItem.word ∧
      ([] : List Word).length < (1 : BitVec 64).toNat) ∧
    ({ blank with entLive := false, ent := List.replicate 255 0 } : State).ent.length < 256 ∧
    ({ blank with entLive := false, ent := List.replicate 255 0 } : State).entLive = false :=
  ⟨by decide, by decide, by rw [List.length_replicate]; decide, rfl⟩

theorem witness_OrderlyHostIsNeverRefused : (asked 0x020000000000000002#72 [.byte 1, .byte 2]).Orderly := by decide +kernel

/-- The last byte of a seed of the greatest used length, and the byte past an empty one. -/
theorem witness_OverlayPutsByteAtItsOffset :
    ((List.replicate 1024 (7 : Byte)).length ≤ 1024 ∧ 1023 < 1024) ∧ ([] : List Byte).length ≤ 1024 :=
  ⟨⟨le_of_eq List.length_replicate, by omega⟩, Nat.zero_le _⟩

/-- The first and the last group. -/
theorem witness_AbsorptionGroupAddsMixesAndStores : (0 < 32 ∧ 31 < 32) ∧ (255 : BitVec 8).toNat / 8 ≠ 0 := by decide

theorem witness_RngStepValuesAndFrame : (1 : BitVec 8) ≠ 0 := by decide

theorem witness_RegenWritesEachWordOnce : 0 < 256 ∧ 255 < 256 := by decide

theorem witness_SecondHalfReadsRewrittenWords : (128 ≤ 128 ∧ 128 < 256) ∧ 128 ≤ 255 ∧ 255 < 256 := by decide

theorem witness_FirstHalfReadsEarlierWords : 0 < 128 ∧ 127 < 128 := by decide

/-- Both branches, the second at `CNT` = 1 and at `CNT` = 256. -/
theorem witness_NextReturnsTheWordAtTheMovedCursor :
    (atCursor 0).gen.cnt = 0 ∧ (0 : Cursor).val + 1 = (atCursor 1).gen.cnt.val ∧
    (255 : Cursor).val + 1 = (atCursor 256).gen.cnt.val := ⟨rfl, rfl, rfl⟩

/-- The first word of block 0, its last word, and the first word of block 1. -/
theorem witness_WordsAreEmittedBlockByBlockFromTheEnd :
    (atCursor 256).gen.cnt = 256 ∧ (255 : Cursor).val = 255 - 0 ∧ (0 : Cursor).val = 255 - 255 ∧
    ∀ n, ∃ s : State, s.gen = (atCursor 256).gen.advances n :=
  ⟨rfl, rfl, rfl, fun n => ⟨{ blank with gen := (atCursor 256).gen.advances n }, rfl⟩⟩

/-- `n` = `CNT`, and `n` one more and 256 more than `CNT`. -/
theorem witness_DiscardRunsTheStatedNumberOfCycles :
    ((256 : BitVec 64).toNat ≤ (atCursor 256).gen.cnt.val ∧ (0 : Cursor).val = (atCursor 256).gen.cnt.val - (256 : BitVec 64).toNat) ∧
    ((atCursor 256).gen.cnt.val < (257 : BitVec 64).toNat ∧
      (255 : Cursor).val = 255 - ((257 : BitVec 64).toNat - (atCursor 256).gen.cnt.val - 1) % 256) ∧
    ((atCursor 256).gen.cnt.val < (512 : BitVec 64).toNat ∧
      (0 : Cursor).val = 255 - ((512 : BitVec 64).toNat - (atCursor 256).gen.cnt.val - 1) % 256) := by decide

/-- Two generators that differ in one consumed word of `RSL`. -/
theorem witness_ConsumedWordsNeverMatterButCountInEquality :
    let g := (atCursor 255).gen
    let h := { g with rsl := g.rsl.write 255 1 }
    g.mm = h.mm ∧ g.aa = h.aa ∧ g.bb = h.bb ∧ g.cc = h.cc ∧ g.cnt = h.cnt ∧
    (∀ i : BitVec 8, i.toNat < g.cnt.val → g.rsl.read i = h.rsl.read i) ∧ ∃ i : BitVec 8, g.rsl.read i ≠ h.rsl.read i := by
  refine ⟨rfl, rfl, rfl, rfl, rfl, ?_, 255, ?_⟩
  · intro i hi
    refine (Bank.read_write_ne _ 1 ?_).symm
    rintro rfl
    exact absurd hi (by decide)
  · rw [Bank.read_write_same]
    exact fun e => absurd ((zeroBuffer_read 255).symm.trans e) (by decide)

end Sys2Proof.Tests
end

section
/-! PROOFS. The step as it runs a decoded command. -/

namespace Sys2Proof.Machine

/-- R46, R56: of the cases of `step_cases`, only the running of a decoded command is left. -/
theorem step_eq_exec_of_decode {s : State} {r : Request} {later : List Request} {i : Instr}
    (hrst : s.resetDue = false) (hidle : s.running = none) (hcmd : s.cmd = r :: later) (hdec : decode r.cw = .ok i) :
    step s = exec i (s.tick.accept r later) := by
  rcases step_cases s with ⟨hreset, -⟩ | ⟨-, ⟨j, hwaits⟩, -⟩ | ⟨-, -, hempty, -⟩ |
    ⟨r', later', j, -, -, hcmd', hdec', hstep⟩ | ⟨r', later', e, -, -, hcmd', hdec', -⟩
  · simp [hrst] at hreset
  · simp [hidle] at hwaits
  · simp [hcmd] at hempty
  · obtain ⟨rfl, rfl⟩ := List.cons.inj (hcmd.symm.trans hcmd')
    obtain rfl := Except.ok.inj (hdec.symm.trans hdec')
    exact hstep
  · obtain ⟨rfl, rfl⟩ := List.cons.inj (hcmd.symm.trans hcmd')
    simp [hdec] at hdec'

/-- Settles O6: `tick` and `accept` together are the stated update of `rst`, `cmd` and `sdat`. -/
theorem stepRunsTheDecodedCommand : Obligations.StepRunsTheDecodedCommand :=
  fun _ _ _ _ hrst hidle hcmd hdec => step_eq_exec_of_decode hrst hidle hcmd hdec

end Sys2Proof.Machine
end

section
/-! PROOFS. What a regeneration cycle leaves: `BB` is the last word of `RSL`, and no word of `RSL` is read. -/

namespace Sys2Proof.Machine

/-- R77: the word a step writes to `RSL` is the `b` it leaves. -/
theorem rngStep_rsl (i : BitVec 8) (c : RegenLocals) : (rngStep i c).rsl = c.rsl.write i (rngStep i c).b := rfl

/-- R18: the last step of a cycle writes `RSL[255]`. -/
theorem regen_bb_eq_rsl_last (g : Gen) : (regen g).bb = (regen g).rsl.read 255 := by
  rw [regen_bb, regen_rsl, show Config.randsiz = 255 + 1 from rfl, rngSteps_succ, rngStep_rsl]
  exact (Bank.read_write_same _ _ _).symm

/-- Two cycles in progress that differ at most in the words of `RSL` from index `k` on, which step `k` has yet to write. -/
structure RegenLocals.AgreeBelow (k : Nat) (c d : RegenLocals) : Prop where
  a   : c.a = d.a
  b   : c.b = d.b
  mm  : c.mm = d.mm
  rsl : ∀ i : BitVec 8, i.toNat < k → c.rsl.read i = d.rsl.read i

/-- R77: what a step does to `a`, `b` and `MM` does not depend on `RSL`. -/
theorem rngStep_with_rsl (i : BitVec 8) (c : RegenLocals) (rsl : Bank 8) :
    rngStep i { c with rsl := rsl } = { rngStep i c with rsl := rsl.write i (rngStep i c).b } := rfl

/-- Step `k` writes the first word on which the two may differ. -/
theorem RegenLocals.AgreeBelow.step {k : Nat} {c d : RegenLocals} (h : AgreeBelow k c d) :
    AgreeBelow (k + 1) (rngStep (BitVec.ofNat 8 k) c) (rngStep (BitVec.ofNat 8 k) d) := by
  have hd : d = { c with rsl := d.rsl } := by simp [h.a, h.b, h.mm]
  rw [hd, rngStep_with_rsl _ c d.rsl]
  refine ⟨rfl, rfl, rfl, fun i hi => ?_⟩
  rw [rngStep_rsl, Bank.read_write, Bank.read_write]
  by_cases hki : BitVec.ofNat 8 k = i
  · rw [if_pos hki, if_pos hki]
  · have hne : i.toNat ≠ k := fun e => hki (by rw [← e, BitVec.ofNat_toNat, BitVec.setWidth_eq])
    rw [if_neg hki, if_neg hki, h.rsl i (by omega)]

theorem RegenLocals.AgreeBelow.steps {c d : RegenLocals} (h : AgreeBelow 0 c d) (k : Nat) :
    AgreeBelow k (rngSteps k c) (rngSteps k d) :=
  forRange_rel AgreeBelow h k fun _ _ _ _ hj => hj.step

/-- R81: after step 255 no word of `RSL` is left to differ. -/
theorem RegenLocals.AgreeBelow.eq {c d : RegenLocals} (h : AgreeBelow 256 c d) : c = d := by
  have hrsl : c.rsl = d.rsl := Bank.ext_read fun i => h.rsl i i.isLt
  obtain ⟨a, b, mm, rsl⟩ := c
  obtain ⟨ha, hb, hmm, -⟩ := h
  simp_all

/-- R79, R81: a cycle reads neither `RSL` nor `CNT`. -/
theorem regen_with_rsl_cnt (g : Gen) (rsl : Bank 8) (c : Cursor) :
    regen { g with rsl := rsl, cnt := c } = { regen g with cnt := c } := by
  have hagree : RegenLocals.AgreeBelow 0 (regenStart { g with rsl := rsl, cnt := c }) (regenStart g) :=
    ⟨rfl, rfl, rfl, fun _ hi => absurd hi (Nat.not_lt_zero _)⟩
  have hsteps := (hagree.steps 256).eq
  simp only [regen, Config.randsiz, hsteps]

/-- Settles O38: the prologue, the chain of steps and the epilogue are the model's equations; the last part is the two facts
above. -/
theorem regenSummary : Obligations.RegenSummary := by
  refine ⟨fun g => ⟨regenStart_a g, regenStart_b g, regenStart_mm g, regenStart_rsl g⟩,
    fun c => ⟨rngSteps_zero c, fun i => rngSteps_succ i c⟩,
    fun g => ⟨regen_aa g, regen_bb g, regen_mm g, regen_rsl g⟩,
    fun g junk c => ⟨regen_bb_eq_rsl_last g, ?_, regen_cnt g, regen_with_rsl_cnt g junk c⟩⟩
  rw [regen_cc, BitVec.toNat_add]
  rfl

end Sys2Proof.Machine
end

section
/-! PROOFS. The generator right after a seeding, and the invariant that seedings and extractions keep. -/

namespace Sys2Proof.Machine

/-- R64 to R70: a seeding ends with one cycle from `CC = 0`, and then arms the cursor. -/
theorem seedWith_eq_regen (buffer : Bank 8) (g : Gen) :
    seedWith buffer g =
      { regen { g with rsl := buffer, mm := seededTable buffer g.mm, aa := 0, bb := 0, cc := 0 } with cnt := 256 } := rfl

@[simp] theorem seedWith_cc (buffer : Bank 8) (g : Gen) : (seedWith buffer g).cc = 1 := by
  rw [seedWith_eq_regen]
  exact regen_cc _

theorem seedWith_bb_eq_rsl_last (buffer : Bank 8) (g : Gen) : (seedWith buffer g).bb = (seedWith buffer g).rsl.read 255 := by
  rw [seedWith_eq_regen]
  exact regen_bb_eq_rsl_last _

/-- R69, R82: the first extraction after a seeding only moves the cursor. -/
theorem seedWith_advance (buffer : Bank 8) (g : Gen) :
    (seedWith buffer g).advance = { seedWith buffer g with cnt := 255 } := by
  have hcnt : (seedWith buffer g).cnt ≠ 0 := by
    rw [seedWith_cnt]
    decide
  rw [Gen.advance_of_ne hcnt, seedWith_cnt, show Cursor.pred 256 = 255 from rfl]

/-- R82: with the cursor at 255 the output is the last word of `RSL`. -/
theorem Gen.output_of_cnt_255 (g : Gen) : Gen.output { g with cnt := 255 } = g.rsl.read 255 := rfl

/-- Settles O21: the cycle that ends `RANDINIT` gives `CC` and `BB`; the armed cursor gives the first extraction. -/
theorem seedingArmsTheCursor : Obligations.SeedingArmsTheCursor := by
  intro buffer g
  refine ⟨seedWith_cnt buffer g, seedWith_cc buffer g, seedWith_bb_eq_rsl_last buffer g, seedWith_advance buffer g, ?_⟩
  rw [seedWith_advance, Gen.output_of_cnt_255]

theorem seedWith_inv (buffer : Bank 8) (g : Gen) : (seedWith buffer g).Inv :=
  ⟨seedWith_bb_eq_rsl_last buffer g, fun _ => seedWith_cc buffer g⟩

/-- R18, R20: an extraction writes `BB` and `RSL` only by a cycle, and never leaves `CNT = 256`. -/
theorem Gen.Inv.advance {g : Gen} (h : g.Inv) : g.advance.Inv := by
  by_cases hcnt : g.cnt = 0
  · rw [Gen.advance_of_zero hcnt]
    exact ⟨regen_bb_eq_rsl_last g, fun h256 => absurd h256 (by decide : (255 : Cursor) ≠ 256)⟩
  · rw [Gen.advance_of_ne hcnt]
    have hlt : (Cursor.pred g.cnt).val ≠ 256 := by
      have := g.cnt.isLt
      rw [Cursor.pred_val]
      omega
    exact ⟨h.1, fun h256 => absurd (congrArg Fin.val h256) hlt⟩

theorem Gen.Inv.advances {g : Gen} (h : g.Inv) (n : Nat) : (g.advances n).Inv := by
  induction n generalizing g with
  | zero => exact h
  | succ n ih => exact ih h.advance

/-- Settles O15: the reset state's generator is a seeding, and its core is idle. -/
theorem resetStateMeetsInvariant : Obligations.ResetStateMeetsInvariant :=
  ⟨seedWith_inv zeroBuffer Gen.beforeReset, rfl⟩

end Sys2Proof.Machine
end

section
/-! PROOFS. What a command and a step do to the generator and to the command in progress, and the invariant of every step. -/

namespace Sys2Proof.Machine

/-- R30: the ways a generator comes from another in one step: unchanged, by a seeding, by extractions. -/
def Gen.Moves (g g' : Gen) : Prop :=
  g' = g ∨ (∃ buffer, g' = seedWith buffer g) ∨ (∃ n, g' = g.advances n)

theorem Gen.Moves.refl (g : Gen) : g.Moves g := .inl rfl

theorem Gen.Moves.of_seedWith (buffer : Bank 8) (g : Gen) : g.Moves (seedWith buffer g) := .inr (.inl ⟨buffer, rfl⟩)

theorem Gen.Moves.of_advances (n : Nat) (g : Gen) : g.Moves (g.advances n) := .inr (.inr ⟨n, rfl⟩)

theorem Gen.Moves.inv {g g' : Gen} (hmoves : g.Moves g') (h : g.Inv) : g'.Inv := by
  obtain rfl | ⟨buffer, rfl⟩ | ⟨n, rfl⟩ := hmoves
  · exact h
  · exact seedWith_inv buffer g
  · exact h.advances n

/-- A command that goes on (which a refused one does not) moves the generator, and leaves the command in progress alone or waits for
a port. -/
theorem exec_moves {i : Instr} {s t : State} (h : exec i s = .next t) :
    s.gen.Moves t.gen ∧ (t.running = s.running ∨ waitsForPort t.running = true) := by
  rcases exec_cases i s with ⟨n, buffer, he⟩ | ⟨buffer, he⟩ | ⟨buffer, he⟩ | ⟨hwaits, he | he⟩ | he | ⟨n, data, he⟩ <;>
    cases he.symm.trans h
  · exact ⟨.of_seedWith buffer s.gen, .inl rfl⟩
  · exact ⟨.of_seedWith buffer s.gen, .inl rfl⟩
  · exact ⟨.of_seedWith buffer s.gen, .inl rfl⟩
  · exact ⟨.refl s.gen, .inr hwaits⟩
  · exact ⟨.refl s.gen, .inr hwaits⟩
  · exact ⟨.of_advances n s.gen, .inl rfl⟩

/-- The same of a whole step: a reset event is a seeding that leaves the core idle, and only a decoded command does more. -/
theorem step_moves {s t : State} (h : step s = .next t) :
    s.gen.Moves t.gen ∧ (t.running = s.running ∨ waitsForPort t.running = true) := by
  rcases step_cases s with ⟨-, he⟩ | ⟨-, -, he⟩ | ⟨-, -, -, he⟩ | ⟨r, later, i, -, -, -, -, he⟩ |
    ⟨r, later, e, -, -, -, -, he⟩
  · cases he.symm.trans h
    exact ⟨.of_seedWith zeroBuffer s.gen, .inr rfl⟩
  · cases he.symm.trans h
    exact ⟨.refl s.gen, .inl rfl⟩
  · cases he.symm.trans h
    exact ⟨.refl s.gen, .inl rfl⟩
  · exact exec_moves (s := s.tick.accept r later) (he.symm.trans h)
  · cases he.symm.trans h
    exact ⟨.refl s.gen, .inl rfl⟩

/-- Settles O10: the generator's part of `step_moves`. -/
theorem generatorChangesOnlyBySeedingOrExtraction : Obligations.GeneratorChangesOnlyBySeedingOrExtraction :=
  fun _ _ h => (step_moves h).1

/-- Settles O16: each move of the generator keeps its invariant, and a step makes no other command wait than one that takes
something from a port. -/
theorem stepKeepsInvariant : Obligations.StepKeepsInvariant := by
  rintro s t ⟨hgen, hwaits⟩ h
  obtain ⟨hmoves, hrunning | hport⟩ := step_moves h
  · exact ⟨hmoves.inv hgen, by rwa [hrunning]⟩
  · exact ⟨hmoves.inv hgen, hport⟩

end Sys2Proof.Machine
end

section
/-! PROOFS. Equality of generators, and the consumed words of `RSL`. -/

namespace Sys2Proof.Machine

/-- R22: equality is of the six fields, the two stores word for word. -/
theorem Gen.equal_iff (g h : Gen) : g.equal h = true ↔
    ((∀ i, g.rsl.read i = h.rsl.read i) ∧ (∀ i, g.mm.read i = h.mm.read i) ∧ g.aa = h.aa ∧ g.bb = h.bb ∧ g.cc = h.cc ∧
      g.cnt = h.cnt) := by
  rw [Gen.equal, decide_eq_true_iff]
  constructor
  · rintro rfl
    exact ⟨fun _ => rfl, fun _ => rfl, rfl, rfl, rfl, rfl⟩
  · rintro ⟨hrsl, hmm, haa, hbb, hcc, hcnt⟩
    have hrsl := Bank.ext_read hrsl
    have hmm := Bank.ext_read hmm
    cases g
    simp_all

/-- R22: two generators that differ at most in consumed words of `RSL`, those at or above `CNT`. -/
structure Gen.SameUnread (g h : Gen) : Prop where
  mm  : g.mm = h.mm
  aa  : g.aa = h.aa
  bb  : g.bb = h.bb
  cc  : g.cc = h.cc
  cnt : g.cnt = h.cnt
  rsl : ∀ i : BitVec 8, i.toNat < g.cnt.val → g.rsl.read i = h.rsl.read i

theorem Gen.SameUnread.refl (g : Gen) : g.SameUnread g := ⟨rfl, rfl, rfl, rfl, rfl, fun _ _ => rfl⟩

/-- All that is left of the second generator is its `RSL`. -/
theorem Gen.SameUnread.eq_with_rsl {g h : Gen} (hgh : g.SameUnread h) : h = { g with rsl := h.rsl } := by
  simp [hgh.mm, hgh.aa, hgh.bb, hgh.cc, hgh.cnt]

/-- A cycle forgets the words on which the two differ. -/
theorem Gen.SameUnread.regen_eq {g h : Gen} (hgh : g.SameUnread h) : regen h = regen g := by
  rw [hgh.eq_with_rsl]
  exact regen_with_rsl_cnt g h.rsl g.cnt

theorem Gen.SameUnread.advance {g h : Gen} (hgh : g.SameUnread h) : g.advance.SameUnread h.advance := by
  by_cases hcnt : g.cnt = 0
  · rw [Gen.advance_of_zero hcnt, Gen.advance_of_zero (hgh.cnt ▸ hcnt), hgh.regen_eq]
    exact .refl _
  · rw [Gen.advance_of_ne hcnt, Gen.advance_of_ne (hgh.cnt ▸ hcnt)]
    refine ⟨hgh.mm, hgh.aa, hgh.bb, hgh.cc, congrArg Cursor.pred hgh.cnt, fun i hi => hgh.rsl i ?_⟩
    exact lt_of_lt_of_le hi (Nat.sub_le _ _)

/-- R82: the word returned stands below the cursor of before the extraction, or a cycle has just written it. -/
theorem Gen.SameUnread.output_advance {g h : Gen} (hgh : g.SameUnread h) : g.advance.output = h.advance.output := by
  by_cases hcnt : g.cnt = 0
  · rw [Gen.advance_of_zero hcnt, Gen.advance_of_zero (hgh.cnt ▸ hcnt), hgh.regen_eq]
  · rw [Gen.advance_of_ne hcnt, Gen.advance_of_ne (hgh.cnt ▸ hcnt), ← hgh.cnt]
    refine hgh.rsl (cursorIndex (Cursor.pred g.cnt)) ?_
    have hpos : g.cnt.val ≠ 0 := fun e => hcnt (Fin.ext e)
    have hlt := g.cnt.isLt
    rw [cursorIndex, BitVec.toNat_ofNat, Cursor.pred_val]
    omega

theorem Gen.SameUnread.output_advances {g h : Gen} (hgh : g.SameUnread h) (n : Nat) :
    (g.advances (n + 1)).output = (h.advances (n + 1)).output := by
  induction n generalizing g h with
  | zero => exact hgh.output_advance
  | succ n ih => exact ih hgh.advance

/-- Settles O44: agreement below the cursor lasts through every extraction; a differing word of `RSL` refutes equality. -/
theorem consumedWordsNeverMatterButCountInEquality : Obligations.ConsumedWordsNeverMatterButCountInEquality := by
  refine ⟨Gen.equal_iff, fun g h hmm haa hbb hcc hcnt hrsl => ⟨?_, ?_⟩⟩
  · exact Gen.SameUnread.output_advances ⟨hmm, haa, hbb, hcc, hcnt, hrsl⟩
  · rintro ⟨i, hne⟩
    refine Bool.eq_false_iff.mpr fun heq => ?_
    obtain ⟨hwords, -⟩ := (Gen.equal_iff g h).mp heq
    exact hne (hwords i)

end Sys2Proof.Machine
end

section
/-! PROOFS. The byte view of a store: the four byte lanes of a word, and the four aligned bytes put together again (R34). -/

namespace Sys2Proof.Machine

/-- R37: lanes are whole bytes. -/
theorem laneShift_dvd (o : ByteOrder) (k : Nat) : 8 ∣ laneShift o k := by
  cases o <;> simp only [laneShift] <;> omega

/-- R37: lanes lie within the word. -/
theorem laneShift_le (o : ByteOrder) (k : Nat) : laneShift o k ≤ 24 := by
  cases o <;> simp only [laneShift] <;> omega

theorem laneShift_eq_iff (o : ByteOrder) (k m : Nat) : laneShift o k = laneShift o m ↔ k % 4 = m % 4 := by
  cases o <;> simp only [laneShift] <;> omega

/-- Below 1024 an offset is given by its word and its lane. -/
theorem eq_of_byteWordIndex_eq_of_laneShift_eq {o : ByteOrder} {k m : Nat} (hk : k < 1024) (hm : m < 1024)
    (hword : byteWordIndex k = byteWordIndex m) (hlane : laneShift o k = laneShift o m) : k = m := by
  have hdiv : k / 4 % 2 ^ 8 = m / 4 % 2 ^ 8 := by
    simpa [byteWordIndex] using congrArg BitVec.toNat hword
  have hmod := (laneShift_eq_iff o k m).mp hlane
  omega

/-- A byte shifted into its lane has its eight bits there and no others. -/
theorem getLsbD_byte_shiftLeft (b : Byte) (s : Nat) {i : Nat} (hi : i < 32) :
    (b.setWidth 32 <<< s).getLsbD i = (decide (s ≤ i ∧ i < s + 8) && b.getLsbD (i - s)) := by
  by_cases hlow : i < s
  · simp [hlow, hi]
  · by_cases hhigh : i - s < 8
    · have hrange : s ≤ i ∧ i < s + 8 := by omega
      simp [hlow, hi, hrange]
    · simp [hlow, BitVec.getLsbD_of_ge b (i - s) (by omega)]

/-- A lane taken out of a word and put back keeps the bits of that lane. -/
theorem getLsbD_lane_shiftLeft (w : Word) (s : Nat) {i : Nat} (hi : i < 32) :
    ((w.extractLsb' s 8).setWidth 32 <<< s).getLsbD i = (decide (s ≤ i ∧ i < s + 8) && w.getLsbD i) := by
  rw [getLsbD_byte_shiftLeft _ _ hi]
  by_cases h : s ≤ i ∧ i < s + 8
  · have hlt : i - s < 8 := by omega
    rw [BitVec.getLsbD_extractLsb', decide_eq_true hlt, Nat.add_sub_of_le h.1, Bool.true_and]
  · rw [decide_eq_false h, Bool.false_and, Bool.false_and]

/-- R34: a word is its four lanes. -/
theorem or_lanes (w : Word) :
    (w.extractLsb' 0 8).setWidth 32 <<< 0 ||| (w.extractLsb' 8 8).setWidth 32 <<< 8 |||
      (w.extractLsb' 16 8).setWidth 32 <<< 16 ||| (w.extractLsb' 24 8).setWidth 32 <<< 24 = w := by
  apply BitVec.eq_of_getLsbD_eq
  intro i hi
  simp only [BitVec.getLsbD_or, getLsbD_lane_shiftLeft _ _ hi, ← Bool.and_or_distrib_right, ← Bool.decide_or]
  rw [decide_eq_true (by omega), Bool.true_and]

/-- R35: the four offsets from `4j` on lie in word `j`. -/
theorem byteWordIndex_aligned (j : Nat) {c : Nat} (hc : c < 4) : byteWordIndex (4 * j + c) = BitVec.ofNat 8 j := by
  rw [byteWordIndex, show (4 * j + c) / 4 = j by omega]

theorem laneShift_aligned (o : ByteOrder) (j c : Nat) : laneShift o (4 * j + c) = laneShift o c :=
  (laneShift_eq_iff o _ _).mpr (by omega)

/-- R34: byte `c` of the aligned four at `4j` is a lane of word `j`. -/
theorem memReadByte_aligned (o : ByteOrder) (t : Bank 8) (j : Nat) {c : Nat} (hc : c < 4) :
    memReadByte o t (4 * j + c) = (t.read (BitVec.ofNat 8 j)).extractLsb' (laneShift o c) 8 := by
  rw [memReadByte, byteWordIndex_aligned j hc, laneShift_aligned]

/-- R34: the aligned four-byte read is the word at that offset, in either byte order. -/
theorem memReadWord_aligned (o : ByteOrder) (t : Bank 8) (j : Nat) :
    memReadWord o t (4 * j) = t.read (BitVec.ofNat 8 j) := by
  simp only [memReadWord, memReadByte_aligned o t j, laneShift_aligned, Nat.reduceLT]
  cases o with
  | little => exact or_lanes _
  | big =>
    have hreverse : ∀ a b c d : Word, a ||| b ||| c ||| d = d ||| c ||| b ||| a := fun a b c d => by ac_rfl
    exact (hreverse _ _ _ _).trans (or_lanes _)

theorem indMask_getLsbD : ∀ i, i < 32 → Config.indMask.getLsbD i = decide (2 ≤ i ∧ i < 2 + 8) := by decide

/-- R34: `v AND 0x3FC` is the index `v[9:2]` moved up by two bits. -/
theorem and_indMask_eq_shiftLeft (v : Word) : v &&& Config.indMask = (indIndex v).setWidth 32 <<< 2 := by
  apply BitVec.eq_of_getLsbD_eq
  intro i hi
  rw [BitVec.getLsbD_and, indMask_getLsbD i hi, indIndex, getLsbD_lane_shiftLeft v 2 hi, Bool.and_comm]

theorem and_indMask_toNat (v : Word) : (v &&& Config.indMask).toNat = 4 * (indIndex v).toNat := by
  have hlt := (indIndex v).isLt
  rw [and_indMask_eq_shiftLeft, BitVec.toNat_shiftLeft, BitVec.toNat_setWidth, Nat.shiftLeft_eq]
  omega

/-- R34: the index form that shifts first and masks then. -/
theorem ushiftRight_and_eq_indIndex (v : Word) : ((v >>> 2) &&& 0xFF#32).setWidth 8 = indIndex v := by
  have hmask : ∀ i, i < 8 → (0xFF#32).getLsbD i = true := by decide
  apply BitVec.eq_of_getLsbD_eq
  intro i hi
  simp only [indIndex, BitVec.getLsbD_setWidth, BitVec.getLsbD_and, BitVec.getLsbD_ushiftRight, BitVec.getLsbD_extractLsb',
    hmask i hi, Bool.and_true]

/-- Settles O29: the masked offset is four times the index, and an aligned read is the read of the word. -/
theorem indirectLookupIsAlignedByteViewRead : Obligations.IndirectLookupIsAlignedByteViewRead := by
  intro o mm v
  have hindex : BitVec.ofNat 8 (indIndex v).toNat = indIndex v := by simp
  refine ⟨?_, ?_, ?_, rfl⟩
  · rw [and_indMask_toNat, memReadWord_aligned, hindex, ind]
  · rw [and_indMask_toNat, Nat.mul_div_cancel_left _ (by omega), hindex, ind]
  · rw [ushiftRight_and_eq_indIndex, ind]

end Sys2Proof.Machine
end

section
/-! PROOFS. The byte-seed overlay: every byte lands in its own lane, and the words are the bytes' little-endian sums
(R37, R61). -/

namespace Sys2Proof.Machine

/-- R61: a byte added into a zero lane sets that lane and carries into no other. -/
theorem extractLsb'_add_byte {w : Word} (b : Byte) {s s' : Nat} (hs : 8 ∣ s) (hs' : 8 ∣ s') (hle : s' ≤ 24)
    (hzero : w.extractLsb' s 8 = 0) :
    (w + b.setWidth 32 <<< s).extractLsb' s' 8 = if s = s' then b else w.extractLsb' s' 8 := by
  have hlane : ∀ i, s ≤ i ∧ i < s + 8 → w.getLsbD i = false := fun i hi => by
    have hbit := congrArg (fun x => x.getLsbD (i - s)) hzero
    simpa [show i - s < 8 by omega, Nat.add_sub_of_le hi.1] using hbit
  have hdisjoint : w &&& b.setWidth 32 <<< s = 0 := by
    apply BitVec.eq_of_getLsbD_eq
    intro i hi
    rw [BitVec.getLsbD_and, getLsbD_byte_shiftLeft b s hi]
    by_cases h : s ≤ i ∧ i < s + 8
    · simp [hlane i h]
    · simp [h]
  rw [BitVec.add_eq_or_of_and_eq_zero _ _ hdisjoint]
  apply BitVec.eq_of_getLsbD_eq
  intro i hi
  rw [BitVec.getLsbD_extractLsb', decide_eq_true hi, Bool.true_and, BitVec.getLsbD_or,
    getLsbD_byte_shiftLeft b s (by omega)]
  by_cases h : s = s'
  · subst h
    simp [hlane (s + i) (by omega), hi]
  · have hout : ¬ (s ≤ s' + i ∧ s' + i < s + 8) := by omega
    simp [h, hi, hout]

theorem memReadByte_overlayByte {o : ByteOrder} {k m : Nat} (b : Byte) {t : Bank 8} (hk : k < 1024) (hm : m < 1024)
    (hzero : memReadByte o t k = 0) :
    memReadByte o (overlayByte o k b t) m = if m = k then b else memReadByte o t m := by
  by_cases hword : byteWordIndex k = byteWordIndex m
  · have hmk : laneShift o k = laneShift o m ↔ m = k :=
      ⟨fun h => (eq_of_byteWordIndex_eq_of_laneShift_eq hk hm hword h).symm, fun h => by rw [h]⟩
    rw [memReadByte, overlayByte, hword, Bank.read_write_same,
      extractLsb'_add_byte b (laneShift_dvd o k) (laneShift_dvd o m) (laneShift_le o m) (hword ▸ hzero)]
    exact if_congr hmk rfl rfl
  · have hmk : m ≠ k := fun h => hword (by rw [h])
    rw [memReadByte, overlayByte, Bank.read_write_ne _ _ hword, if_neg hmk, memReadByte]

/-- R61: the loop lays the bytes from offset `k` on over lanes that are still zero, and keeps the lanes before. -/
theorem memReadByte_overlayBytes {o : ByteOrder} (bytes : List Byte) {k m : Nat} {t : Bank 8}
    (hlen : k + bytes.length ≤ 1024) (hm : m < 1024)
    (hzero : ∀ j, k ≤ j → j < 1024 → memReadByte o t j = 0) :
    memReadByte o (overlayBytes o bytes k t) m = if m < k then memReadByte o t m else bytes.getD (m - k) 0 := by
  induction bytes generalizing k t with
  | nil =>
    by_cases h : m < k
    · rw [if_pos h, overlayBytes]
    · rw [if_neg h, overlayBytes, hzero m (by omega) hm, List.getD_nil]
  | cons b bs ih =>
    rw [List.length_cons] at hlen
    have hk : k < 1024 := by omega
    have hbyte : ∀ j, j < 1024 → memReadByte o (overlayByte o k b t) j = if j = k then b else memReadByte o t j :=
      fun j hj => memReadByte_overlayByte b hk hj (hzero k le_rfl hk)
    rw [overlayBytes, ih (by omega) fun j hkj hj => by rw [hbyte j hj, if_neg (by omega), hzero j (by omega) hj],
      hbyte m hm]
    rcases lt_trichotomy m k with hlt | rfl | hgt
    · rw [if_pos (by omega), if_neg (by omega), if_pos hlt]
    · simp
    · rw [if_neg (by omega), if_neg (by omega), show m - k = (m - (k + 1)) + 1 by omega, List.getD_cons_succ]

theorem memReadByte_zeroBuffer (o : ByteOrder) (k : Nat) : memReadByte o zeroBuffer k = 0 := by
  simp [memReadByte]

/-- Settles O30: the loop from offset 0 on the zero buffer. -/
theorem overlayPutsByteAtItsOffset : Obligations.OverlayPutsByteAtItsOffset := by
  intro o bytes k hlen hk
  rw [memReadByte_overlayBytes bytes (by omega) hk fun j _ _ => memReadByte_zeroBuffer o j, if_neg (Nat.not_lt_zero k),
    Nat.sub_zero]

/-- R34, R37: in little-endian order a word is the weighted sum of the four bytes at its offset. -/
theorem read_toNat_eq_sum_memReadByte (t : Bank 8) (j : BitVec 8) :
    (t.read j).toNat = (memReadByte .little t (4 * j.toNat)).toNat + 2 ^ 8 * (memReadByte .little t (4 * j.toNat + 1)).toNat +
      2 ^ 16 * (memReadByte .little t (4 * j.toNat + 2)).toNat + 2 ^ 24 * (memReadByte .little t (4 * j.toNat + 3)).toNat := by
  have hbyte : ∀ c, c < 4 → (memReadByte .little t (4 * j.toNat + c)).toNat = (t.read j).toNat / 2 ^ (8 * c) % 2 ^ 8 :=
    fun c hc => by
      rw [memReadByte_aligned .little t j.toNat hc, BitVec.ofNat_toNat, BitVec.setWidth_eq, BitVec.extractLsb'_toNat,
        Nat.shiftRight_eq_div_pow, laneShift, Nat.mod_eq_of_lt hc]
  have hlt := (t.read j).isLt
  rw [← Nat.add_zero (4 * j.toNat), hbyte 0 (by omega), Nat.add_zero, hbyte 1 (by omega), hbyte 2 (by omega),
    hbyte 3 (by omega)]
  omega

/-- R61: a byte past the first 1024 is not used, and no offset of the buffer asks for one. -/
theorem memReadByte_byteBuffer_take (bytes : List Byte) {k : Nat} (hk : k < 1024) :
    memReadByte .little (byteBuffer (bytes.take 1024)) k = bytes.getD k 0 := by
  have hlen : (bytes.take 1024).length ≤ 1024 := List.length_take_le 1024 bytes
  have hget : (bytes.take 1024).getD k 0 = bytes.getD k 0 := by
    rw [List.getD_eq_getElem?_getD, List.getElem?_take_of_lt hk, ← List.getD_eq_getElem?_getD]
  rw [byteBuffer, Config.seedByteOrder, overlayPutsByteAtItsOffset .little _ k hlen hk, hget]

/-- R50, R61: `SEEDB` with its whole payload listed. -/
theorem exec_seedb_of_payload {n : BitVec 64} {s : State} {bytes : List Byte} (hlen : bytes.length = n.toNat)
    (hsdat : s.sdat = bytes.map SdatItem.byte) :
    exec (.seedb n) s = .next ((s.consumeSdat n.toNat).seedAndRespond (byteBuffer (bytes.take 1024))) := by
  rw [exec_seedb, execSeedb, hsdat, readItems_byte, ← hlen, supply_exact, seedFromPayload, Config.seedBytesMax]

/-- Settles O17: word `j` is the sum of its four bytes, and each byte stands at its offset. -/
theorem seedbSeedsFromItsBytes : Obligations.SeedbSeedsFromItsBytes := by
  intro n s bytes hlen hsdat
  refine ⟨byteBuffer (bytes.take 1024), fun j => ?_, exec_seedb_of_payload hlen hsdat⟩
  have hj := j.isLt
  rw [read_toNat_eq_sum_memReadByte]
  iterate 4 rw [memReadByte_byteBuffer_take bytes (by omega)]

end Sys2Proof.Machine
end

section
/-! PROOFS. The command word: what `decode` answers, said once through the two fields of R47, and the match-and-mask table. -/

namespace Sys2Proof

/-- R54: the reserved command words. -/
def ReservedWord (cw : BitVec 72) : Prop :=
  opOf cw = 0x00 ∨ 0x07 ≤ opOf cw ∨ ((opOf cw = 0x01 ∨ opOf cw = 0x04 ∨ opOf cw = 0x05) ∧ countOf cw ≠ 0)

/-- R54: an opcode outside the six of R48. -/
theorem opcode_out_of_map {op : BitVec 8} (h1 : op ≠ 0x01#8) (h2 : op ≠ 0x02#8) (h3 : op ≠ 0x03#8) (h4 : op ≠ 0x04#8)
    (h5 : op ≠ 0x05#8) (h6 : op ≠ 0x06#8) : op = 0x00 ∨ 0x07 ≤ op := by
  bv_omega

/-- What an answer of `decode` says of the word: the command's two fields (R47, R48), or that the word is reserved (R54). -/
def DecodeAnswer (cw : BitVec 72) : Except DecodeError Instr → Prop
  | .ok i => opOf cw = i.opcode ∧ countOf cw = i.count
  | .error _ => ReservedWord cw

/-- R49, R54: an opcode that carries no count, with its command. -/
theorem decodeNoCount_answer {cw : BitVec 72} {i : Instr} (hop : opOf cw = i.opcode) (hzero : i.count = 0)
    (hreserved : opOf cw = 0x01 ∨ opOf cw = 0x04 ∨ opOf cw = 0x05) :
    DecodeAnswer cw (decodeNoCount (opOf cw) (countOf cw) i) := by
  by_cases hn : countOf cw = 0
  · rw [decodeNoCount, if_pos hn]
    exact ⟨hop, hn.trans hzero.symm⟩
  · rw [decodeNoCount, if_neg hn]
    exact .inr (.inr ⟨hreserved, hn⟩)

/-- R56: every answer of `decode`, along its seven branches. -/
theorem decode_answer (cw : BitVec 72) : DecodeAnswer cw (decode cw) := by
  rw [decode]
  split_ifs with h1 h2 h3 h4 h5 h6
  · exact decodeNoCount_answer h1 rfl (.inl h1)
  · exact ⟨h2, rfl⟩
  · exact ⟨h3, rfl⟩
  · exact decodeNoCount_answer h4 rfl (.inr (.inl h4))
  · exact decodeNoCount_answer h5 rfl (.inr (.inr h5))
  · exact ⟨h6, rfl⟩
  · exact (opcode_out_of_map h1 h2 h3 h4 h5 h6).imp_right .inl

/-- R48, R54: no command's two fields are those of a reserved word. -/
theorem not_reservedWord_of_fields {cw : BitVec 72} {i : Instr} (hop : opOf cw = i.opcode) (hn : countOf cw = i.count) :
    ¬ ReservedWord cw := by
  rw [ReservedWord, hop, hn]
  cases i <;> simp [Instr.opcode, Instr.count]

/-- R47, R48: the opcode names the command and the count is its operand. -/
theorem Instr.eq_of_fields {i j : Instr} (hop : i.opcode = j.opcode) (hn : i.count = j.count) : i = j := by
  cases i <;> cases j <;> simp_all [Instr.opcode, Instr.count]

/-- R47, R56: a word decodes to the command whose opcode and count it carries. -/
theorem decode_eq_ok_iff (cw : BitVec 72) (i : Instr) :
    decode cw = .ok i ↔ opOf cw = i.opcode ∧ countOf cw = i.count := by
  have hanswer := decode_answer cw
  constructor
  · intro h
    rwa [h] at hanswer
  · rintro ⟨hop, hn⟩
    cases hdec : decode cw with
    | ok j =>
      rw [hdec] at hanswer
      obtain ⟨hop', hn'⟩ := hanswer
      rw [Instr.eq_of_fields (hop'.symm.trans hop) (hn'.symm.trans hn)]
    | error e =>
      rw [hdec] at hanswer
      exact absurd hanswer (not_reservedWord_of_fields hop hn)

/-- R54: the words `decode` rejects are the reserved ones. -/
theorem decode_error_iff (cw : BitVec 72) : (∃ e, decode cw = .error e) ↔ ReservedWord cw := by
  have hanswer := decode_answer cw
  cases hdec : decode cw with
  | ok i =>
    rw [hdec] at hanswer
    obtain ⟨hop, hn⟩ := hanswer
    exact iff_of_false (fun ⟨_, he⟩ => nomatch he) (not_reservedWord_of_fields hop hn)
  | error e =>
    rw [hdec] at hanswer
    exact iff_of_true ⟨e, rfl⟩ hanswer

/-- Settles O2: the word a command is encoded to carries the command's two fields. -/
theorem decodeOfEncodeIsTheCommand : Obligations.DecodeOfEncodeIsTheCommand :=
  fun i _ => (decode_eq_ok_iff (encode i) i).mpr ⟨Laws.opOf_append _ _, Laws.countOf_append _ _⟩

/-- Settles O3: a word is its two fields. -/
theorem encodeOfDecodeIsTheWord : Obligations.EncodeOfDecodeIsTheWord := by
  intro cw i h
  obtain ⟨hop, hn⟩ := (decode_eq_ok_iff cw i).mp h
  rw [encode, ← hop, ← hn, Laws.append_fields]

/-- R49, R56: the count bits a command's row asks to be zero, all of them where the count is not an operand. -/
def Instr.countMask : Instr → BitVec 64
  | .seed0 | .seede | .next => BitVec.allOnes 64
  | .seedb _ | .seedw _ | .discard _ => 0

theorem Instr.row_mask (i : Instr) : i.row.mask = 0xFF#8 ++ i.countMask := by
  cases i <;> simp only [Instr.row, Instr.countMask] <;> decide

theorem Instr.row_pattern (i : Instr) : i.row.pattern = i.opcode ++ (0 : BitVec 64) := by
  cases i <;> simp only [Instr.row, Instr.opcode] <;> decide

/-- R49: a command's own count is one its row allows. -/
theorem Instr.count_and_countMask (i : Instr) : i.count &&& i.countMask = 0 := by
  cases i <;> simp [Instr.count, Instr.countMask]

/-- R47: two command words are equal exactly when their two fields are. -/
theorem append_eq_append_iff (op op' : BitVec 8) (n n' : BitVec 64) : op ++ n = op' ++ n' ↔ op = op' ∧ n = n' := by
  constructor
  · intro h
    exact ⟨by rw [← Laws.opOf_append op n, h, Laws.opOf_append], by rw [← Laws.countOf_append op n, h, Laws.countOf_append]⟩
  · rintro ⟨rfl, rfl⟩
    rfl

/-- R56: a command's row is selected by its opcode and by the zero bits it asks of the count. -/
theorem Instr.row_selects_iff (i : Instr) (cw : BitVec 72) :
    i.row.selects cw = true ↔ opOf cw = i.opcode ∧ countOf cw &&& i.countMask = 0 := by
  have hmasked : cw &&& i.row.mask = opOf cw ++ (countOf cw &&& i.countMask) := by
    conv_lhs => rw [i.row_mask, ← Laws.append_fields cw]
    refine BitVec.and_append.trans ?_
    exact congrArg (· ++ (countOf cw &&& i.countMask)) (BitVec.and_allOnes (x := opOf cw))
  rw [OpcodeRow.selects, beq_iff_eq, hmasked, i.row_pattern, append_eq_append_iff]

/-- R48: the commands whose rows are the table, no two with one opcode. -/
theorem opcodeTable_rows_disjoint :
    opcodeTable.Pairwise (fun r q => ∀ cw, ¬(r.selects cw = true ∧ q.selects cw = true)) := by
  have hopcodes : [Instr.seed0, .seedb 0, .seedw 0, .seede, .next, .discard 0].Pairwise (·.opcode ≠ ·.opcode) := by decide
  refine List.Pairwise.map Instr.row (fun i j hij cw ⟨hi, hj⟩ => hij ?_) hopcodes
  exact ((i.row_selects_iff cw).mp hi).1.symm.trans ((j.row_selects_iff cw).mp hj).1

/-- Settles O4: with its own count a word passes its row's mask, and the rows are told apart by the opcode. -/
theorem decodeAgreesWithMatchAndMask : Obligations.DecodeAgreesWithMatchAndMask := by
  refine ⟨fun cw i => ?_, opcodeTable_rows_disjoint⟩
  rw [decode_eq_ok_iff, i.row_selects_iff]
  constructor
  · rintro ⟨hop, hn⟩
    exact ⟨⟨hop, by rw [hn, i.count_and_countMask]⟩, hn.symm⟩
  · rintro ⟨⟨hop, -⟩, hn⟩
    exact ⟨hop, hn.symm⟩

/-- Settles O1: the fourteen words, each decoded. -/
theorem specWordsDecodeAsListed : Obligations.SpecWordsDecodeAsListed := by
  unfold Obligations.SpecWordsDecodeAsListed
  decide

end Sys2Proof
end

section
/-! PROOFS. What a command that goes on leaves behind, form by form: the frame of the ports, the response, and the step around it. -/

namespace Sys2Proof.Machine

/-- R50, R51: the commands that take a payload from `SDAT`. -/
def TakesPayload (i : Instr) : Prop := ∃ n, i = .seedb n ∨ i = .seedw n

/-- The states a command can go on to: seeded or waiting for its port, or the cursor moved. -/
inductive GoesOnTo (s : State) : Instr → State → Prop where
  | seed0 : GoesOnTo s .seed0 (s.seedAndRespond zeroBuffer)
  | payload {i : Instr} (hi : TakesPayload i) (n : Nat) (buffer : Bank 8) :
      GoesOnTo s i ((s.consumeSdat n).seedAndRespond buffer)
  | payloadWaits {i : Instr} (hi : TakesPayload i) : GoesOnTo s i (s.takeListedSdat.await i)
  | entropy (buffer : Bank 8) : GoesOnTo s .seede (s.consumeEnt.seedAndRespond buffer)
  | entropyWaits : GoesOnTo s .seede (s.takeListedEnt.await .seede)
  | next : GoesOnTo s .next ({ s with gen := s.gen.advance }.respond .ok s.gen.advance.output)
  | discard (n : BitVec 64) : GoesOnTo s (.discard n) ({ s with gen := s.gen.advances n.toNat }.respond .ok 0)

theorem goesOnTo_of_seedFromPayload {α : Type} {i : Instr} (hi : TakesPayload i) {n : Nat} {buffer : List α → Bank 8}
    {items : Supply α} {s t : State} (h : seedFromPayload i n buffer items s = .next t) : GoesOnTo s i t := by
  rcases seedFromPayload_cases i n buffer items s with ⟨used, -, he⟩ | ⟨-, he⟩ | ⟨-, he⟩ <;> cases he.symm.trans h
  · exact .payload hi n (buffer used)
  · exact .payloadWaits hi

/-- Everything `exec` can answer but the refusal. -/
theorem goesOnTo_of_exec {i : Instr} {s t : State} (h : exec i s = .next t) : GoesOnTo s i t := by
  cases i with
  | seed0 => cases h; exact .seed0
  | seedb n => exact goesOnTo_of_seedFromPayload ⟨n, .inl rfl⟩ h
  | seedw n => exact goesOnTo_of_seedFromPayload ⟨n, .inr rfl⟩ h
  | seede =>
    rcases seedFromEntropy_cases .seede (entropyWords s.ent s.entLive s.entTaken) s with ⟨words, -, he⟩ | ⟨-, he⟩ <;>
      cases he.symm.trans h
    · exact .entropy _
    · exact .entropyWaits
  | next => cases h; exact .next
  | discard n => cases h; exact .discard n

theorem TakesPayload.ne_next {i : Instr} (hi : TakesPayload i) : i ≠ .next := by
  rcases hi with ⟨n, rfl | rfl⟩ <;> exact Instr.noConfusion

/-- Settles O9: only the forms of a payload command touch `SDAT`, only those of `SEEDE` touch `ENT`. -/
theorem commandFrame : Obligations.CommandFrame := by
  intro i s t h
  have hpayload : TakesPayload i → ¬ ∀ n, i ≠ .seedb n ∧ i ≠ .seedw n :=
    fun ⟨n, hi⟩ hne => hi.elim (hne n).1 (hne n).2
  cases goesOnTo_of_exec h with
  | seed0 | next | discard n => exact ⟨rfl, rfl, rfl, rfl, fun _ => ⟨rfl, rfl⟩, fun _ => ⟨rfl, rfl⟩⟩
  | payload hi | payloadWaits hi =>
    exact ⟨rfl, rfl, rfl, rfl, fun hne => absurd hne (hpayload hi), fun _ => ⟨rfl, rfl⟩⟩
  | entropy buffer | entropyWaits => exact ⟨rfl, rfl, rfl, rfl, fun _ => ⟨rfl, rfl⟩, fun hne => absurd rfl hne⟩

theorem exec_cmd {i : Instr} {s t : State} (h : exec i s = .next t) : t.cmd = s.cmd :=
  (commandFrame i s t h).1

/-- R53: the data of a command's response, from the generator it leaves. -/
def answerData (i : Instr) (g : Gen) : Word := if i = .next then g.output else 0

/-- R53, R108: a command that goes on completes with its one response, or waits with none. -/
theorem exec_answers {i : Instr} {s t : State} (h : exec i s = .next t) :
    (t.running = s.running ∧ t.rsp = s.rsp ++ [responseWord .ok (answerData i t.gen)]) ∨
    (t.running = some i ∧ t.rsp = s.rsp) := by
  cases goesOnTo_of_exec h with
  | seed0 | entropy buffer | next | discard n => exact .inl ⟨rfl, rfl⟩
  | payload hi => exact .inl ⟨rfl, by rw [answerData, if_neg hi.ne_next]; rfl⟩
  | payloadWaits hi | entropyWaits => exact .inr ⟨rfl, rfl⟩

/-- R46, R54, R56: an idle core takes the head of `CMD` and runs it or answers `ERR`, as `decode` says. -/
theorem step_of_head {s : State} {r : Request} {later : List Request}
    (hrst : s.resetDue = false) (hidle : s.running = none) (hcmd : s.cmd = r :: later) :
    (∃ i, decode r.cw = .ok i ∧ step s = exec i (s.tick.accept r later)) ∨
    (∃ e, decode r.cw = .error e ∧ step s = .next (s.tick.accept r later).raiseIllegal) := by
  rcases step_cases s with ⟨hreset, -⟩ | ⟨-, ⟨j, hwaits⟩, -⟩ | ⟨-, -, hempty, -⟩ |
    ⟨r', later', i, -, -, hcmd', hdec, hstep⟩ | ⟨r', later', e, -, -, hcmd', hdec, hstep⟩
  · simp [hrst] at hreset
  · simp [hidle] at hwaits
  · simp [hcmd] at hempty
  · obtain ⟨rfl, rfl⟩ := List.cons.inj (hcmd.symm.trans hcmd')
    exact .inl ⟨i, hdec, hstep⟩
  · obtain ⟨rfl, rfl⟩ := List.cons.inj (hcmd.symm.trans hcmd')
    exact .inr ⟨e, hdec, hstep⟩

/-- R54, R89: the step with a rejected word. -/
theorem step_of_decode_error {s : State} {r : Request} {later : List Request} {e : DecodeError}
    (hrst : s.resetDue = false) (hidle : s.running = none) (hcmd : s.cmd = r :: later) (hdec : decode r.cw = .error e) :
    step s = .next (s.tick.accept r later).raiseIllegal := by
  rcases step_of_head hrst hidle hcmd with ⟨i, hok, -⟩ | ⟨-, -, hstep⟩
  · cases hdec.symm.trans hok
  · exact hstep

@[simp] theorem responseStatus_responseWord (st : Status) (d : Word) : responseStatus (responseWord st d) = st.bit :=
  BitVec.extractLsb'_append_eq_left

@[simp] theorem responseData_responseWord (st : Status) (d : Word) : responseData (responseWord st d) = d :=
  BitVec.extractLsb'_append_eq_right

/-- R53: the status bit tells the two kinds of response apart. -/
theorem responseWord_ok_ne_err (d d' : Word) : responseWord .ok d ≠ responseWord .err d' := by
  intro h
  have hbit := congrArg responseStatus h
  rw [responseStatus_responseWord, responseStatus_responseWord] at hbit
  exact absurd hbit (by decide)

/-- Settles O5: `decode` rejects the reserved words, the step with one is `raiseIllegal`, and a command's response is `OK`. -/
theorem reservedWordAnswersErrAndChangesNothing : Obligations.ReservedWordAnswersErrAndChangesNothing := by
  refine ⟨decode_error_iff, fun s r later hrst hidle hcmd hres => ?_, fun i s t h d => ?_⟩
  · obtain ⟨e, hdec⟩ := (decode_error_iff r.cw).mpr hres
    exact step_of_decode_error hrst hidle hcmd hdec
  · rcases exec_answers h with ⟨-, hrsp⟩ | ⟨-, hrsp⟩ <;> rw [hrsp]
    · intro heq
      exact responseWord_ok_ne_err _ d (List.cons.inj (List.append_cancel_left heq)).1
    · simp

/-- R53: the response a step appends answers the command it took, and the core is then idle. -/
theorem step_rsp {s t : State} (h : step s = .next t) :
    t.rsp = s.rsp ∨
      ∃ r x, s.cmd = r :: t.cmd ∧ s.resetDue = false ∧ s.running = none ∧ t.running = none ∧ t.rsp = s.rsp ++ [x] := by
  rcases step_cases s with ⟨-, he⟩ | ⟨-, -, he⟩ | ⟨-, -, -, he⟩ | ⟨r, later, i, hrst, hidle, hcmd, -, he⟩ |
    ⟨r, later, e, hrst, hidle, hcmd, -, he⟩ <;> have hnext := he.symm.trans h
  · cases hnext
    exact .inl rfl
  · cases hnext
    exact .inl rfl
  · cases hnext
    exact .inl rfl
  · have hlater : t.cmd = later := exec_cmd hnext
    rcases exec_answers hnext with ⟨hrunning, hrsp⟩ | ⟨-, hrsp⟩
    · exact .inr ⟨r, _, by rw [hcmd, hlater], hrst, hidle, hrunning.trans hidle, hrsp⟩
    · exact .inl hrsp
  · cases hnext
    exact .inr ⟨r, _, hcmd, hrst, hidle, hidle, rfl⟩

/-- R46, R53: a step that takes a command answers it or leaves it waiting. -/
theorem step_takes_head {s t : State} {r : Request} {later : List Request}
    (hrst : s.resetDue = false) (hidle : s.running = none) (hcmd : s.cmd = r :: later) (h : step s = .next t) :
    t.cmd = later ∧ ((∃ x, t.rsp = s.rsp ++ [x]) ∨ (∃ i, t.running = some i)) := by
  rcases step_of_head hrst hidle hcmd with ⟨i, -, he⟩ | ⟨e, -, he⟩ <;> have hnext := he.symm.trans h
  · refine ⟨exec_cmd hnext, ?_⟩
    rcases exec_answers hnext with ⟨-, hrsp⟩ | ⟨hwaits, -⟩
    · exact .inl ⟨_, hrsp⟩
    · exact .inr ⟨i, hwaits⟩
  · cases hnext
    exact ⟨rfl, .inl ⟨_, rfl⟩⟩

/-- Settles O8: the layout is that of `responseWord`; the rest is what a step and a command answer. -/
theorem oneResponsePerCompletedCommand : Obligations.OneResponsePerCompletedCommand := by
  refine ⟨fun st d => ⟨?_, responseData_responseWord st d⟩, fun s r later e hrst hidle hcmd hdec => ?_, fun s t => step_rsp,
    fun s t r later => step_takes_head, fun i s t h hne => ?_, fun s t h => ?_⟩
  · rw [responseStatus_responseWord]
    cases st <;> rfl
  · exact ⟨_, step_of_decode_error hrst hidle hcmd hdec, rfl⟩
  · rcases exec_answers h with ⟨-, hrsp⟩ | ⟨-, hrsp⟩
    · exact .inr (by rw [hrsp, answerData, if_neg hne])
    · exact .inl hrsp
  · cases h
    rfl

end Sys2Proof.Machine
end

section
/-! PROOFS. The refusal, and the host that keeps the payload protocol. -/

namespace Sys2Proof.Machine

/-- R50, R51, I5: the items standing on `SDAT` are more than `n`, or one has the wrong width. -/
def Violates {α : Type} (pick : SdatItem → Option α) (n : Nat) (sdat : List SdatItem) : Prop :=
  n < sdat.length ∨ ∃ x ∈ sdat, pick x = none

/-- I5: the items read as one width are as many as stand there, or one of them has the other width. -/
theorem readItems_cases {α : Type} (pick : SdatItem → Option α) (l : List SdatItem) :
    (∃ as, readItems pick l = some as ∧ as.length = l.length ∧ ∀ x ∈ l, pick x ≠ none) ∨
    (readItems pick l = none ∧ ∃ x ∈ l, pick x = none) := by
  induction l with
  | nil => exact .inl ⟨[], rfl, rfl, by simp⟩
  | cons x xs ih =>
    cases hx : pick x with
    | none => exact .inr ⟨by simp [readItems, hx], x, by simp, hx⟩
    | some a =>
      rcases ih with ⟨as, hread, hlen, hall⟩ | ⟨hread, y, hy, hnone⟩
      · exact .inl ⟨a :: as, by simp [readItems, hx, hread], by simp [hlen], by simpa [hx] using hall⟩
      · exact .inr ⟨by simp [readItems, hx, hread], y, by simp [hy], hnone⟩

theorem supply_violation_iff {α : Type} (pick : SdatItem → Option α) (sdat : List SdatItem) (live : Bool) (free : Nat → α)
    (start n cap : Nat) :
    supply (readItems pick sdat) live free start n cap = .violation ↔ Violates pick n sdat := by
  rcases readItems_cases pick sdat with ⟨as, hread, hlen, hall⟩ | ⟨hread, hbad⟩
  · have hwidth : ¬ ∃ x ∈ sdat, pick x = none := fun ⟨x, hx, hnone⟩ => hall x hx hnone
    rw [hread, Violates, or_iff_left hwidth, ← hlen, supply]
    constructor
    · intro h
      by_contra hlt
      rw [if_neg hlt] at h
      split at h <;> cases h
    · exact fun hlt => if_pos hlt
  · rw [hread]
    exact iff_of_true rfl (.inr hbad)

theorem seedFromPayload_refused_iff {α : Type} (i : Instr) (n : Nat) (buffer : List α → Bank 8) (items : Supply α) (s : State) :
    seedFromPayload i n buffer items s = .refused .payloadViolation ↔ items = .violation := by
  cases items <;> simp [seedFromPayload]

theorem exec_seedb_refused_iff (n : BitVec 64) (s : State) :
    exec (.seedb n) s = .refused .payloadViolation ↔ Violates SdatItem.byte? n.toNat s.sdat := by
  rw [exec_seedb, execSeedb, seedFromPayload_refused_iff, supply_violation_iff]

theorem exec_seedw_refused_iff (n : BitVec 64) (s : State) :
    exec (.seedw n) s = .refused .payloadViolation ↔ Violates SdatItem.word? n.toNat s.sdat := by
  rw [exec_seedw, execSeedw, seedFromPayload_refused_iff, supply_violation_iff]

theorem exec_seede_not_refused (s : State) : exec .seede s ≠ .refused .payloadViolation := by
  rcases seedFromEntropy_cases .seede (entropyWords s.ent s.entLive s.entTaken) s with ⟨words, -, he⟩ | ⟨-, he⟩ <;>
    rw [exec_seede, execSeede, he] <;> exact fun h => nomatch h

theorem exec_goes_on_or_refused (i : Instr) (s : State) :
    (∃ t, exec i s = .next t) ∨ exec i s = .refused .payloadViolation := by
  rcases exec_cases i s with ⟨n, buffer, he⟩ | ⟨buffer, he⟩ | ⟨buffer, he⟩ | ⟨-, he | he⟩ | he | ⟨n, data, he⟩
  · exact .inl ⟨_, he⟩
  · exact .inl ⟨_, he⟩
  · exact .inl ⟨_, he⟩
  · exact .inl ⟨_, he⟩
  · exact .inl ⟨_, he⟩
  · exact .inr he
  · exact .inl ⟨_, he⟩

/-- Settles O27: the two payload commands are refused by their supply, and no other command is. -/
theorem onlyPayloadViolationsAreRefused : Obligations.OnlyPayloadViolationsAreRefused := by
  refine fun i s => ⟨exec_goes_on_or_refused i s, ?_⟩
  cases i with
  | seedb n => simpa [Violates] using exec_seedb_refused_iff n s
  | seedw n => simpa [Violates] using exec_seedw_refused_iff n s
  | seede => simpa using exec_seede_not_refused s
  | seed0 => simp [exec_seed0]
  | next => simp [exec_next]
  | discard n => simp [exec_discard]

/-- R50, R51: exactly `n` items of one width are neither too many nor of the wrong width. -/
theorem not_violates_of_fits {α : Type} {pick : SdatItem → Option α} {n : Nat} {sdat : List SdatItem}
    (hfits : (sdat.all (fun x => (pick x).isSome) && sdat.length == n) = true) : ¬ Violates pick n sdat := by
  obtain ⟨hwidth, hlen⟩ := (Bool.and_eq_true _ _).mp hfits
  rintro (hlong | ⟨x, hx, hnone⟩)
  · exact absurd (beq_iff_eq.mp hlen) (by omega)
  · simpa [hnone] using List.all_eq_true.mp hwidth x hx

theorem exec_goes_on_of_payloadFits {i : Instr} {s : State} (hfits : i.payloadFits s.sdat = true) : ∃ t, exec i s = .next t := by
  refine (exec_goes_on_or_refused i s).resolve_right fun hrefused => ?_
  rcases (onlyPayloadViolationsAreRefused i s).2.mp hrefused with ⟨n, rfl, hviolates⟩ | ⟨n, rfl, hviolates⟩
  · exact not_violates_of_fits hfits hviolates
  · exact not_violates_of_fits hfits hviolates

/-- R50, R51: a command whose payload fits leaves nothing on `SDAT`. -/
theorem exec_sdat_of_payloadFits {i : Instr} {s t : State} (hfits : i.payloadFits s.sdat = true) (h : exec i s = .next t) :
    t.sdat = [] := by
  cases goesOnTo_of_exec h with
  | payload hi | payloadWaits hi => rfl
  | seed0 | entropy buffer | entropyWaits | next | discard n => exact List.isEmpty_iff.mp hfits

/-- R50, R51: what the orderly host gives with the command at the head of `CMD`. -/
theorem State.Orderly.head {s : State} {r : Request} {later : List Request} (h : s.Orderly) (hcmd : s.cmd = r :: later) :
    (s.tick.accept r later).sdat = r.sdat ∧ Request.honoured r = true ∧ later.all Request.honoured = true := by
  obtain ⟨hsdat, hall⟩ := h
  rw [hcmd, List.all_cons, Bool.and_eq_true] at hall
  exact ⟨by rw [State.accept_sdat, State.tick_sdat, hsdat, List.nil_append], hall⟩

/-- Settles O28: a command taken from an orderly `CMD` finds exactly its own payload on `SDAT`, so it goes on and leaves none; a
reserved word comes with none. -/
theorem orderlyHostIsNeverRefused : Obligations.OrderlyHostIsNeverRefused := by
  rintro s ⟨hsdat, hall⟩
  rcases step_cases s with ⟨-, he⟩ | ⟨-, -, he⟩ | ⟨-, -, -, he⟩ | ⟨r, later, i, -, -, hcmd, hdec, he⟩ |
    ⟨r, later, e, -, -, hcmd, hdec, he⟩
  · exact ⟨_, he, rfl, hall⟩
  · exact ⟨_, he, hsdat, hall⟩
  · exact ⟨_, he, hsdat, hall⟩
  · obtain ⟨haccept, hr, hlater⟩ := State.Orderly.head ⟨hsdat, hall⟩ hcmd
    have hfits : i.payloadFits (s.tick.accept r later).sdat = true := by
      rwa [Request.honoured, hdec, ← haccept] at hr
    obtain ⟨t, ht⟩ := exec_goes_on_of_payloadFits hfits
    refine ⟨t, he.trans ht, exec_sdat_of_payloadFits hfits ht, ?_⟩
    rwa [exec_cmd ht]
  · obtain ⟨haccept, hr, hlater⟩ := State.Orderly.head ⟨hsdat, hall⟩ hcmd
    rw [Request.honoured, hdec, ← haccept] at hr
    exact ⟨_, he, List.isEmpty_iff.mp hr, hlater⟩

end Sys2Proof.Machine
end

section
/-! PROOFS. The two word-fed seed commands. -/

namespace Sys2Proof.Machine

/-- R62, R63: the loop from word `k` on puts the words at their indices and keeps every other word. -/
theorem copyWords_read (words : List Word) {k : Nat} (t : Bank 8) (hlen : k + words.length ≤ 256) (j : BitVec 8) :
    (copyWords words k t).read j = if j.toNat < k then t.read j else words.getD (j.toNat - k) (t.read j) := by
  induction words generalizing k t with
  | nil => simp [copyWords]
  | cons w ws ih =>
    have hk : k < 256 := by rw [List.length_cons] at hlen; omega
    have hindex : BitVec.ofNat 8 k = j ↔ j.toNat = k := by
      rw [← BitVec.toNat_inj, BitVec.toNat_ofNat, Nat.mod_eq_of_lt hk, eq_comm]
    rw [copyWords, ih _ (by rw [List.length_cons] at hlen; omega), Bank.read_write]
    simp only [hindex]
    rcases Nat.lt_trichotomy j.toNat k with hlt | heq | hgt
    · rw [if_pos (by omega), if_neg (by omega), if_pos hlt]
    · rw [if_pos (by omega), if_pos heq, if_neg (by omega), heq, Nat.sub_self, List.getD_cons_zero]
    · rw [if_neg (by omega), if_neg (by omega), if_neg (by omega), show j.toNat - k = (j.toNat - (k + 1)) + 1 by omega,
        List.getD_cons_succ]

/-- R62, R63: copied from word 0 on, the first 256 words of a list stand at their indices; past its end the store is kept. -/
theorem copyWords_take_read (words : List Word) (t : Bank 8) (j : BitVec 8) :
    (copyWords (words.take 256) 0 t).read j = words.getD j.toNat (t.read j) := by
  have hlen : 0 + (words.take 256).length ≤ 256 := by rw [Nat.zero_add]; exact List.length_take_le 256 words
  rw [copyWords_read _ t hlen, if_neg (Nat.not_lt_zero _), Nat.sub_zero, List.getD_eq_getElem?_getD,
    List.getElem?_take_of_lt j.isLt, ← List.getD_eq_getElem?_getD]

/-- Settles O18: the whole payload is the supply, and the loop puts its words into the zero buffer. -/
theorem seedwSeedsFromItsWords : Obligations.SeedwSeedsFromItsWords := by
  intro n s words hlen hsdat
  refine ⟨wordBuffer (words.take 256), fun j => ?_, ?_⟩
  · rw [wordBuffer, copyWords_take_read, zeroBuffer_read]
  · rw [exec_seedw, execSeedw, hsdat, readItems_word, ← hlen, supply_exact]
    rfl

/-- R52: with 256 answers listed, the first 256 are the seed words. -/
theorem entropyWords_of_listed {listed : List Word} (h : 256 ≤ listed.length) (live : Bool) (start : Nat) :
    entropyWords listed live start = some (listed.take 256) := by
  rw [entropyWords, Config.randsiz, if_pos (.inl h), Nat.sub_eq_zero_of_le h, freeItems_none, List.append_nil]

/-- Settles O19: every index of `RSL` lies within the 256 answers. -/
theorem seedeSeedsFromTheAnswers : Obligations.SeedeSeedsFromTheAnswers := by
  intro s hlen
  refine ⟨copyWords (s.ent.take 256) 0 s.gen.rsl, fun j => ?_, ?_⟩
  · have hj : j.toNat < s.ent.length := by have := j.isLt; omega
    rw [copyWords_take_read, List.getD_eq_getElem _ _ hj, List.getElem?_eq_getElem hj]
  · rw [exec_seede, execSeede, entropyWords_of_listed hlen]
    rfl

end Sys2Proof.Machine
end

section
/-! PROOFS. The loop of `NEXT` that `DISCARD` stands for. -/

namespace Sys2Proof.Machine

/-- R58, R85: `n` times `NEXT` completes with `n` extractions and `n` responses. -/
theorem nextLoop_completes (n : Nat) (s : State) :
    ∃ u, nextLoop n s = .next u ∧ u.gen = s.gen.advances n ∧ u.rsp.length = s.rsp.length + n := by
  induction n generalizing s with
  | zero => exact ⟨s, rfl, rfl, rfl⟩
  | succ n ih =>
    obtain ⟨u, hloop, hgen, hrsp⟩ := ih ({ s with gen := s.gen.advance }.respond .ok s.gen.advance.output)
    refine ⟨u, hloop, hgen, ?_⟩
    simp only [hrsp, State.respond_rsp, List.length_append, List.length_singleton]
    omega

/-- Settles O41: `DISCARD n` makes the same `n` extractions. -/
theorem discardIsRepeatedNext : Obligations.DiscardIsRepeatedNext := by
  intro n s
  obtain ⟨u, hloop, hgen, hrsp⟩ := nextLoop_completes n.toNat s
  refine ⟨u, hloop, hrsp, ?_⟩
  rw [exec_discard, hgen]
  rfl

end Sys2Proof.Machine
end

section
/-! PROOFS. `RANDINIT` as two sequences of groups (R64 to R70), and what the first of them forgets. -/

namespace Sys2Proof.Machine

/-- R66: step 2 is `MIX` four times. -/
theorem scramble_eq_mix (p : Bank 3) : scramble p = mix (mix (mix (mix p))) := by
  simp only [scramble, Config.scrambleRounds, forRange_succ, forRange_zero]

/-- R67: `P` and `MM` before group `k` of the first pass, the seed standing in `RSL`. -/
def seedPass (g : Gen) (k : Nat) : Absorb :=
  forRange k (absorbGroup g.rsl) { p := scramble goldenMixers, mm := g.mm }

/-- R68: `P` and `MM` before group `k` of the second pass, which reads the table as it stands. -/
def tablePass (g : Gen) (k : Nat) : Absorb :=
  forRange k (fun i s => absorbGroup s.mm i s) (seedPass g 32)

theorem seedPass_zero (g : Gen) : seedPass g 0 = { p := mix (mix (mix (mix goldenMixers))), mm := g.mm } := by
  rw [seedPass, forRange_zero, scramble_eq_mix]

theorem seedPass_succ (g : Gen) (k : Nat) : seedPass g (k + 1) = absorbGroup g.rsl k (seedPass g k) :=
  forRange_succ k _ _

theorem tablePass_zero (g : Gen) : tablePass g 0 = seedPass g 32 := forRange_zero _ _

theorem tablePass_succ (g : Gen) (k : Nat) : tablePass g (k + 1) = absorbGroup (tablePass g k).mm k (tablePass g k) :=
  forRange_succ k _ _

/-- R65 to R68: the second pass ends with the table that `RANDINIT` hands to the cycle. -/
theorem tablePass_mm (g : Gen) : (tablePass g 32).mm = seededTable g.rsl g.mm := rfl

/-- R69, R70: `RANDINIT` ends with one cycle on that table. -/
theorem randinit_eq_regen (g : Gen) :
    randinit g = { regen { g with mm := (tablePass g 32).mm, aa := 0, bb := 0, cc := 0 } with cnt := 256 } := by
  rw [tablePass_mm, randinit]

/-- Settles O46: the two passes' states, group by group, are the sequences. -/
theorem randinitRunsItsStepsInOrder : Obligations.RandinitRunsItsStepsInOrder :=
  ⟨fun g => ⟨goldenMixers, seedPass g, tablePass g, Bank.read_fill Config.golden, seedPass_zero g,
    fun k _ => seedPass_succ g k, tablePass_zero g, fun k _ => tablePass_succ g k, randinit_eq_regen g⟩,
   fun _ _ => rfl⟩

/-- R67: two first passes in progress that differ at most in the words of `MM` from group `k` on, which are yet to be stored. -/
structure Absorb.AgreeBelow (k : Nat) (s t : Absorb) : Prop where
  p  : s.p = t.p
  mm : ∀ i : BitVec 8, i.toNat / 8 < k → s.mm.read i = t.mm.read i

/-- R67: from one source, group `k` leaves the same `P` and stores the first group on which the two may differ. -/
theorem Absorb.AgreeBelow.step {k : Nat} {s t : Absorb} (h : AgreeBelow k s t) (src : Bank 8) (hk : k < 32) :
    AgreeBelow (k + 1) (absorbGroup src k s) (absorbGroup src k t) := by
  have hp : mix (addGroup src k s.p) = mix (addGroup src k t.p) := by rw [h.p]
  refine ⟨hp, fun i hi => ?_⟩
  simp only [absorbGroup, storeGroup_read _ hk, hp]
  by_cases hgroup : i.toNat / 8 = k
  · rw [if_pos hgroup, if_pos hgroup]
  · rw [if_neg hgroup, if_neg hgroup, h.mm i (by omega)]

/-- R67: after the last group no word of `MM` is left to differ. -/
theorem Absorb.AgreeBelow.eq {s t : Absorb} (h : AgreeBelow 32 s t) : s = t := by
  have hmm : s.mm = t.mm := Bank.ext_read fun i => h.mm i (by have := i.isLt; omega)
  exact congrArg₂ Absorb.mk h.p hmm

/-- R67: the first pass writes every word of `MM` and reads none of the old ones. -/
theorem absorbSeed_with_mm (seed : Bank 8) (p : Bank 3) (mm mm' : Bank 8) :
    absorbSeed seed { p := p, mm := mm } = absorbSeed seed { p := p, mm := mm' } := by
  have hstart : Absorb.AgreeBelow 0 { p := p, mm := mm } { p := p, mm := mm' } :=
    ⟨rfl, fun _ hi => absurd hi (Nat.not_lt_zero _)⟩
  exact Absorb.AgreeBelow.eq (forRange_rel Absorb.AgreeBelow hstart 32 fun _ hk _ _ h => h.step seed hk)

theorem seededTable_with_mm (seed mm mm' : Bank 8) : seededTable seed mm = seededTable seed mm' := by
  rw [seededTable, absorbSeed_with_mm seed _ mm mm', seededTable]

/-- R30, R59: a seeding keeps nothing of the generator before it. -/
theorem seedWith_gen_irrelevant (buffer : Bank 8) (g h : Gen) : seedWith buffer g = seedWith buffer h := by
  rw [seedWith_eq_regen, seedWith_eq_regen, seededTable_with_mm buffer g.mm h.mm]
  rfl

end Sys2Proof.Machine
end

section
/-! PROOFS. The seed commands compared: with another generator before, with other items, and with one another. -/

namespace Sys2Proof.Machine

/-- R52: the source gives exactly 256 answers or none. -/
theorem length_of_entropyWords {listed words : List Word} {live : Bool} {start : Nat}
    (h : entropyWords listed live start = some words) : words.length = 256 := by
  rw [entropyWords, Config.randsiz] at h
  split at h
  · cases h
    rw [List.length_append, List.length_take, freeItems_length]
    omega
  · cases h

/-- R63: 256 words laid over a store leave nothing of it. -/
theorem copyWords_with_store {words : List Word} (hlen : words.length = 256) (t t' : Bank 8) :
    copyWords words 0 t = copyWords words 0 t' := by
  apply Bank.ext_read
  intro j
  have hj : j.toNat < words.length := hlen ▸ j.isLt
  rw [copyWords_read words t (by omega), copyWords_read words t' (by omega), if_neg (Nat.not_lt_zero _),
    if_neg (Nat.not_lt_zero _), Nat.sub_zero, List.getD_eq_getElem _ _ hj, List.getD_eq_getElem _ _ hj]

/-- R53, R59: the seeding that ends a seed command depends on the buffer and the responses given before, not on the generator. -/
theorem seedAndRespond_gen_rsp_eq (buffer : Bank 8) {s s' : State} (hrsp : s.rsp = s'.rsp) :
    (s.seedAndRespond buffer).gen = (s'.seedAndRespond buffer).gen ∧
      (s'.seedAndRespond buffer).rsp = (s.seedAndRespond buffer).rsp := by
  rw [State.seedAndRespond_gen, State.seedAndRespond_gen, State.seedAndRespond_rsp, State.seedAndRespond_rsp, hrsp]
  exact ⟨seedWith_gen_irrelevant buffer s.gen s'.gen, rfl⟩

/-- R61, R62: a payload command that completes seeds from its items alone. -/
theorem seedFromPayload_gen_irrelevant {α : Type} {i : Instr} {n : Nat} {buffer : List α → Bank 8} {items : Supply α}
    {s t u : State} {g : Gen} (ht : seedFromPayload i n buffer items s = .next t)
    (hu : seedFromPayload i n buffer items { s with gen := g } = .next u) (hanswers : t.rsp ≠ s.rsp) :
    t.gen = u.gen ∧ u.rsp = t.rsp := by
  cases items with
  | whole used =>
    cases ht
    cases hu
    exact seedAndRespond_gen_rsp_eq (buffer used) rfl
  | starved =>
    cases ht
    exact absurd rfl hanswers
  | violation => cases ht

/-- R63: `SEEDE` seeds from its 256 answers alone, though it lays them over `RSL`. -/
theorem seedFromEntropy_gen_irrelevant {i : Instr} {answers : Option (List Word)} {s t u : State} {g : Gen}
    (hlen : ∀ words, answers = some words → words.length = 256) (ht : seedFromEntropy i answers s = .next t)
    (hu : seedFromEntropy i answers { s with gen := g } = .next u) (hanswers : t.rsp ≠ s.rsp) :
    t.gen = u.gen ∧ u.rsp = t.rsp := by
  cases answers with
  | some words =>
    rw [seedFromEntropy, copyWords_with_store (hlen words rfl) s.gen.rsl g.rsl] at ht
    cases ht
    cases hu
    exact seedAndRespond_gen_rsp_eq (copyWords words 0 g.rsl) rfl
  | none =>
    cases ht
    exact absurd rfl hanswers

/-- Settles O20: each seed command's buffer comes from its ports, and a seeding keeps nothing of the generator before it. -/
theorem seedResultIgnoresGeneratorBefore : Obligations.SeedResultIgnoresGeneratorBefore := by
  intro i s t u g hnext hdiscard ht hu hanswers
  cases i with
  | seed0 =>
    cases ht
    cases hu
    exact seedAndRespond_gen_rsp_eq zeroBuffer rfl
  | seedb n => exact seedFromPayload_gen_irrelevant ht hu hanswers
  | seedw n => exact seedFromPayload_gen_irrelevant ht hu hanswers
  | seede => exact seedFromEntropy_gen_irrelevant (fun _ => length_of_entropyWords) ht hu hanswers
  | next => exact absurd rfl hnext
  | discard n => exact absurd rfl (hdiscard n)

end Sys2Proof.Machine
end

section
/-! PROOFS. Seeds that come to the same seed words: longer than is used, zero-padded, or given in another form. -/

namespace Sys2Proof.Machine

/-- R51, R62: `SEEDW` with its whole payload listed. -/
theorem exec_seedw_of_payload {n : BitVec 64} {s : State} {words : List Word} (hlen : words.length = n.toNat)
    (hsdat : s.sdat = words.map SdatItem.word) :
    exec (.seedw n) s = .next ((s.consumeSdat n.toNat).seedAndRespond (wordBuffer (words.take 256))) := by
  rw [exec_seedw, execSeedw, hsdat, readItems_word, ← hlen, supply_exact, seedFromPayload, Config.randsiz]

/-- Settles O22: the buffer is made from the items the bound leaves, and cutting the payload there leaves the same ones. -/
theorem excessSeedItemsHaveNoEffect : Obligations.ExcessSeedItemsHaveNoEffect := by
  refine ⟨fun n s t bytes hlen hn h => ?_, fun n s t words hlen hn h => ?_⟩
  · have hcut : (bytes.take 1024).length = (1024 : BitVec 64).toNat := List.length_take_of_le (hlen ▸ hn)
    cases (exec_seedb_of_payload hlen rfl).symm.trans h
    refine ⟨_, exec_seedb_of_payload hcut rfl, ?_⟩
    rw [List.take_take, Nat.min_self]
    exact seedAndRespond_gen_rsp_eq _ rfl
  · have hcut : (words.take 256).length = (256 : BitVec 64).toNat := List.length_take_of_le (hlen ▸ hn)
    cases (exec_seedw_of_payload hlen rfl).symm.trans h
    refine ⟨_, exec_seedw_of_payload hcut rfl, ?_⟩
    rw [List.take_take, Nat.min_self]
    exact seedAndRespond_gen_rsp_eq _ rfl

/-- R34, R37: a store is the 1024 bytes of its byte view. -/
theorem ext_memReadByte {t u : Bank 8} (h : ∀ k, k < 1024 → memReadByte .little t k = memReadByte .little u k) : t = u := by
  apply Bank.ext_read
  intro j
  have hj := j.isLt
  apply BitVec.eq_of_toNat_eq
  rw [read_toNat_eq_sum_memReadByte t, read_toNat_eq_sum_memReadByte u]
  iterate 4 rw [h _ (by omega)]

theorem getD_append_replicate_zero (bytes : List Byte) (m k : Nat) :
    (bytes ++ List.replicate m 0).getD k 0 = bytes.getD k 0 := by
  by_cases hk : k < bytes.length
  · rw [List.getD_append _ _ _ _ hk]
  · have hge : bytes.length ≤ k := Nat.le_of_not_lt hk
    rw [List.getD_append_right _ _ _ _ hge, List.getD_eq_getElem?_getD, List.getElem?_getD_replicate_default_eq,
      List.getD_eq_default _ _ hge]

/-- R61: zero bytes past the end of the seed are the zeros of the buffer. -/
theorem byteBuffer_append_zeros (bytes : List Byte) (m : Nat) :
    byteBuffer ((bytes ++ List.replicate m 0).take 1024) = byteBuffer (bytes.take 1024) :=
  ext_memReadByte fun k hk => by
    rw [memReadByte_byteBuffer_take _ hk, memReadByte_byteBuffer_take _ hk, getD_append_replicate_zero]

/-- Settles O23: the two byte seeds fill the same buffer, and no bytes leave it zero, which is the seed of reset. -/
theorem trailingZeroBytesChangeNothing : Obligations.TrailingZeroBytesChangeNothing := by
  intro n m s t u bytes hlen hnm ht hu
  have hlen' : (bytes ++ List.replicate (m.toNat - n.toNat) 0).length = m.toNat := by
    rw [List.length_append, List.length_replicate]
    omega
  cases (exec_seedb_of_payload hlen rfl).symm.trans ht
  cases (exec_seedb_of_payload hlen' rfl).symm.trans hu
  simp only [State.seedAndRespond_gen, State.consumeSdat_gen, byteBuffer_append_zeros, true_and]
  rintro rfl
  obtain rfl : bytes = [] := List.eq_nil_of_length_eq_zero hlen
  exact seedWith_gen_irrelevant zeroBuffer s.gen Gen.beforeReset

/-- R61: seed word `j` of a byte seed. -/
def seedWord (bytes : List Byte) (j : Nat) : Word :=
  BitVec.ofNat 32
    ((bytes.getD (4 * j) 0).toNat + 2 ^ 8 * (bytes.getD (4 * j + 1) 0).toNat +
      2 ^ 16 * (bytes.getD (4 * j + 2) 0).toNat + 2 ^ 24 * (bytes.getD (4 * j + 3) 0).toNat)

/-- R60, R62: `SEEDW` with no words seeds from the zero buffer, as `SEED0` does. -/
theorem exec_seedw_empty_gen {s u : State} (hu : exec (.seedw 0) { s with sdat := [] } = .next u) :
    u.gen = seedWith zeroBuffer s.gen := by
  cases (exec_seedw_of_payload (words := []) rfl rfl).symm.trans hu
  rfl

/-- R61, R62: the byte seed's buffer holds its 256 seed words. -/
theorem exec_seedb_gen_eq_seedw {n : BitVec 64} {s t u : State} {bytes : List Byte} (hlen : bytes.length = n.toNat)
    (ht : exec (.seedb n) { s with sdat := bytes.map SdatItem.byte } = .next t)
    (hu : exec (.seedw 256) { s with sdat := (List.range 256).map fun j => SdatItem.word (seedWord bytes j) } = .next u) :
    t.gen = u.gen := by
  have hwords : ((List.range 256).map (seedWord bytes)).length = 256 := by rw [List.length_map, List.length_range]
  obtain ⟨byteSeed, hbytes, htake⟩ := seedbSeedsFromItsBytes n { s with sdat := bytes.map SdatItem.byte } bytes hlen rfl
  obtain ⟨wordSeed, hread, hcopy⟩ := seedwSeedsFromItsWords 256
    { s with sdat := (List.range 256).map fun j => SdatItem.word (seedWord bytes j) } _ hwords List.map_map.symm
  have hsame : byteSeed = wordSeed := Bank.ext_read fun j => by
    have hj : j.toNat < ((List.range 256).map (seedWord bytes)).length := by rw [hwords]; exact j.isLt
    rw [hread, List.getD_eq_getElem _ _ hj, List.getElem_map, List.getElem_range, seedWord, ← hbytes j,
      BitVec.ofNat_toNat, BitVec.setWidth_eq]
  cases htake.symm.trans ht
  cases hcopy.symm.trans hu
  exact congrArg (seedWith · s.gen) hsame

/-- R62, R63: 256 answers and 256 words fill the buffer alike. -/
theorem exec_seede_gen_eq_seedw {s t u : State} {words : List Word} (hlen : words.length = 256)
    (ht : exec .seede { s with ent := words } = .next t)
    (hu : exec (.seedw 256) { s with sdat := words.map SdatItem.word } = .next u) : t.gen = u.gen := by
  obtain ⟨entropySeed, hanswers, htake⟩ := seedeSeedsFromTheAnswers { s with ent := words } hlen.ge
  obtain ⟨wordSeed, hread, hcopy⟩ := seedwSeedsFromItsWords 256 { s with sdat := words.map SdatItem.word } words hlen rfl
  have hsame : entropySeed = wordSeed := Bank.ext_read fun j => by
    rw [hread, List.getD_eq_getElem?_getD, ← hanswers j, Option.getD_some]
  cases htake.symm.trans ht
  cases hcopy.symm.trans hu
  exact congrArg (seedWith · s.gen) hsame

/-- Settles O24: each form fills the buffer of the word seed of its seed words. -/
theorem everySeedFormIsAWordSeed : Obligations.EverySeedFormIsAWordSeed := by
  refine ⟨fun s t u ht hu => ?_, fun n s t u bytes hlen ht hu => exec_seedb_gen_eq_seedw hlen ht hu,
    fun s t u words hlen ht hu => exec_seede_gen_eq_seedw hlen ht hu⟩
  rw [exec_seedw_empty_gen hu]
  cases (exec_seed0 s).symm.trans ht
  exact State.seedAndRespond_gen zeroBuffer s

end Sys2Proof.Machine
end

section
/-! PROOFS. The accumulators before the first absorption group (R65, R66), and one group word by word (R67, R68). -/

namespace Sys2Proof.Machine

/-- Settles O33: step 2 is four times `MIX` on a constant, which the kernel evaluates. -/
theorem scrambledMixersAreTheConstant : Obligations.ScrambledMixersAreTheConstant := by
  unfold Obligations.ScrambledMixersAreTheConstant
  rw [scramble_eq_mix]
  decide +kernel

/-- R67, R68: word `8g + j` of `MM` receives accumulator `j`. -/
theorem storeGroup_read_groupIndex (p : Bank 3) {g : Nat} (hg : g < 32) (mm : Bank 8) (j : BitVec 3) :
    (storeGroup p g mm).read (groupIndex g j.toNat) = p.read j := by
  have hj : j.toNat < 8 := j.isLt
  have hindex : (groupIndex g j.toNat).toNat = 8 * g + j.toNat := Laws.Eval.groupIndex_toNat hg hj
  have hmod : (groupIndex g j.toNat).toNat % 8 = j.toNat := by omega
  rw [storeGroup_read p hg, if_pos (by omega), hmod, BitVec.ofNat_toNat, BitVec.setWidth_eq]

/-- Settles O45: `Q` is `P` after the additions, and the store keeps the words outside the group. -/
theorem absorptionGroupAddsMixesAndStores : Obligations.AbsorptionGroupAddsMixesAndStores := by
  intro src g s hg
  exact ⟨addGroup src g s.p, addGroup_read src g s.p, rfl, storeGroup_read_groupIndex _ hg s.mm,
    fun i hi => (storeGroup_read _ hg s.mm i).trans (if_neg hi)⟩

end Sys2Proof.Machine
end

section
/-! PROOFS. `MIX` written out (R72), by the window of accumulators that each step reads and hands on, and its bijectivity
(R73), by its 24 assignments. -/

namespace Sys2Proof.Machine

/-- R72: `MIX` is its eight steps in order. -/
theorem mix_eq_mixSteps (p : Bank 3) :
    mix p = mixStep 7#3 (mixStep 6#3 (mixStep 5#3 (mixStep 4#3 (mixStep 3#3 (mixStep 2#3 (mixStep 1#3 (mixStep 0#3 p))))))) := by
  simp only [mix, forRange_succ, forRange_zero]

/-- R72: the eight accumulators named in order from `P[k]`, their indices mod 8; step `k` is then one rule for every `k`. -/
def AccumulatorsFrom (k : BitVec 3) (p : Bank 3) (a b c d e f g h : Word) : Prop :=
  p.read k = a ∧ p.read (k + 1) = b ∧ p.read (k + 2) = c ∧ p.read (k + 3) = d ∧
  p.read (k + 4) = e ∧ p.read (k + 5) = f ∧ p.read (k + 6) = g ∧ p.read (k + 7) = h

/-- R72: the three assignments of step `k`, the accumulators afterwards named from `P[k+1]`, where the next step begins. -/
theorem AccumulatorsFrom.step {p : Bank 3} {k : BitVec 3} {a b c d e f g h : Word}
    (hp : AccumulatorsFrom k p a b c d e f g h) :
    AccumulatorsFrom (k + 1) (mixStep k p) (b + c) c (d + (a ^^^ mixShift k b)) e f g h (a ^^^ mixShift k b) := by
  obtain ⟨rfl, rfl, rfl, rfl, rfl, rfl, rfl, rfl⟩ := hp
  simp [AccumulatorsFrom, mixStep, Bank.read_write, BitVec.add_assoc]

/-- Settles O31: the rule of one step, taken eight times, comes round to `P[0]`; each `mixShift k` evaluates to its shift. -/
theorem mixIsTheWrittenOutPattern : Obligations.MixIsTheWrittenOutPattern := by
  intro p
  have hp : AccumulatorsFrom 0 p (p.read 0) (p.read 1) (p.read 2) (p.read 3) (p.read 4) (p.read 5) (p.read 6) (p.read 7) :=
    ⟨rfl, rfl, rfl, rfl, rfl, rfl, rfl, rfl⟩
  rw [mix_eq_mixSteps]
  exact hp.step.step.step.step.step.step.step.step

/-- R73: the assignment `P[i] ← f P[j] P[i]`. -/
def assign (i j : BitVec 3) (f : Word → Word → Word) (p : Bank 3) : Bank 3 := p.write i (f (p.read j) (p.read i))

/-- R73: an assignment from another accumulator is undone by the assignment that undoes its operation. -/
theorem assign_leftInverse {i j : BitVec 3} (hij : i ≠ j) {f g : Word → Word → Word}
    (hgf : ∀ v, Function.LeftInverse (g v) (f v)) : Function.LeftInverse (assign i j g) (assign i j f) := by
  intro p
  have hj : (assign i j f p).read j = p.read j := Bank.read_write_ne p _ hij
  have hi : (assign i j f p).read i = f (p.read j) (p.read i) := Bank.read_write_same p i _
  apply Bank.ext_read
  intro l
  rw [assign, hj, hi, hgf]
  by_cases hl : i = l
  · subst hl
    exact Bank.read_write_same _ i _
  · rw [Bank.read_write_ne _ _ hl, assign, Bank.read_write_ne _ _ hl]

/-- R73: for every value of the accumulator read, the operation permutes the words, so the assignment permutes the banks. -/
theorem assign_bijective {i j : BitVec 3} (hij : i ≠ j) (σ : Word → Equiv.Perm Word) :
    Function.Bijective (assign i j fun v => σ v) :=
  ⟨(assign_leftInverse hij fun v => (σ v).left_inv).injective,
    (assign_leftInverse hij fun v => (σ v).right_inv).surjective⟩

theorem assign_add_bijective {i j : BitVec 3} (hij : i ≠ j) : Function.Bijective (assign i j fun v w => w + v) :=
  assign_bijective hij Equiv.addRight

/-- Exclusive-or with a function of the other accumulator undoes itself. -/
theorem assign_xor_bijective {i j : BitVec 3} (hij : i ≠ j) (s : Word → Word) :
    Function.Bijective (assign i j fun v w => w ^^^ s v) :=
  (show Function.Involutive (assign i j fun v w => w ^^^ s v) from
    assign_leftInverse hij fun v w => by rw [BitVec.xor_assoc, BitVec.xor_self, BitVec.xor_zero]).bijective

/-- R72: the three assignments of a step, the first of them the last in the composition. -/
theorem mixStep_eq_assigns (k : BitVec 3) :
    mixStep k = assign (k + 1) (k + 2) (fun v w => w + v) ∘ assign (k + 3) k (fun v w => w + v) ∘
      assign k (k + 1) (fun v w => w ^^^ mixShift k v) := rfl

theorem mixStep_bijective (k : BitVec 3) : Function.Bijective (mixStep k) := by
  rw [mixStep_eq_assigns]
  exact (assign_add_bijective (by simp)).comp
    ((assign_add_bijective (by simp)).comp (assign_xor_bijective (by simp) _))

/-- A loop of bijections is a bijection. -/
theorem forRange_bijective {σ : Type} {body : Nat → σ → σ} (hbody : ∀ j, Function.Bijective (body j)) (n : Nat) :
    Function.Bijective (forRange n body) := by
  induction n with
  | zero =>
    rw [show forRange 0 body = id from funext (forRange_zero body)]
    exact Function.bijective_id
  | succ n ih =>
    rw [show forRange (n + 1) body = body n ∘ forRange n body from funext (forRange_succ n body)]
    exact (hbody n).comp ih

/-- Settles O32: each of the eight steps is three invertible assignments. -/
theorem mixIsABijection : Obligations.MixIsABijection :=
  forRange_bijective (fun k => mixStep_bijective (BitVec.ofNat 3 k)) 8

end Sys2Proof.Machine
end

section
/-! PROOFS. One rng-step's values and frame (R77, R80), and the words that a run of rng-steps leaves alone (R78, R80, R81). -/

namespace Sys2Proof.Machine

/-- R77: the four shifts, chosen by `i mod 4`. -/
theorem stepShift_eq_ite (i : BitVec 8) (a : Word) :
    stepShift i a = if i.toNat % 4 = 0 then a <<< 13 else if i.toNat % 4 = 1 then a >>> 6
      else if i.toNat % 4 = 2 then a <<< 2 else a >>> 16 := by
  have hcases : i.toNat % 4 = 0 ∨ i.toNat % 4 = 1 ∨ i.toNat % 4 = 2 ∨ i.toNat % 4 = 3 := by omega
  rcases hcases with h | h | h | h <;> simp [stepShift, h]

theorem pairedIndex_toNat (i : BitVec 8) : (pairedIndex i).toNat = (i.toNat + 128) % 256 := BitVec.toNat_add i 128

theorem pairedIndex_eq_ofNat (i : BitVec 8) : pairedIndex i = BitVec.ofNat 8 ((i.toNat + 128) % 256) := by
  rw [← pairedIndex_toNat, BitVec.ofNat_toNat, BitVec.setWidth_eq]

/-- R35: the indirect index of `v >>> RANDSIZL` is `v[17:10]`. -/
theorem indIndex_ushiftRight_randsizl (v : Word) : indIndex (v >>> Config.randsizl) = v.extractLsb' 10 8 := by
  ext k hk
  simp only [indIndex, Config.randsizl, BitVec.getElem_extractLsb', BitVec.getLsbD_ushiftRight]
  congr 1
  omega

/-- R77: the new `a`. -/
theorem rngStep_a (i : BitVec 8) (c : RegenLocals) :
    (rngStep i c).a = (c.a ^^^ stepShift i c.a) + c.mm.read (pairedIndex i) := rfl

/-- R77: the word a step writes to `MM[i]`, the first lookup seeing the `MM` of before the step. -/
theorem rngStep_mm (i : BitVec 8) (c : RegenLocals) :
    (rngStep i c).mm = c.mm.write i (ind c.mm (c.mm.read i) + (rngStep i c).a + c.b) := rfl

/-- R77, R104: the second lookup goes by the word just written and sees it in `MM`. -/
theorem rngStep_b (i : BitVec 8) (c : RegenLocals) :
    (rngStep i c).b = (rngStep i c).mm.read (((rngStep i c).mm.read i).extractLsb' 10 8) + c.mm.read i := by
  rw [rngStep_mm, Bank.read_write_same, ← indIndex_ushiftRight_randsizl]
  rfl

theorem rngStep_mm_read_ne {i j : BitVec 8} (h : i ≠ j) (c : RegenLocals) : (rngStep i c).mm.read j = c.mm.read j := by
  rw [rngStep_mm, Bank.read_write_ne _ _ h]

theorem rngStep_rsl_read_ne {i j : BitVec 8} (h : i ≠ j) (c : RegenLocals) : (rngStep i c).rsl.read j = c.rsl.read j := by
  rw [rngStep_rsl, Bank.read_write_ne _ _ h]

theorem rngStep_rsl_read_same (i : BitVec 8) (c : RegenLocals) : (rngStep i c).rsl.read i = (rngStep i c).b := by
  rw [rngStep_rsl, Bank.read_write_same]

/-- Settles O34: the second lookup sees the new word where its index is `i`, and the word of before the step elsewhere. -/
theorem rngStepValuesAndFrame : Obligations.RngStepValuesAndFrame := by
  intro i c x shifted a y seen t
  have ha : t.a = a := by rw [rngStep_a, stepShift_eq_ite, pairedIndex_eq_ofNat]
  have hy : t.mm.read i = y := by rw [rngStep_mm, Bank.read_write_same, ha]; rfl
  have hseen : t.mm.read (y.extractLsb' 10 8) = seen := by
    by_cases hi : y.extractLsb' 10 8 = i
    · rw [show seen = y from if_pos hi, hi, hy]
    · rw [show seen = c.mm.read (y.extractLsb' 10 8) from if_neg hi, rngStep_mm_read_ne (Ne.symm hi)]
  have hb : t.b = seen + x := by rw [rngStep_b, hy, hseen]
  exact ⟨ha, hb, hy, (rngStep_rsl_read_same i c).trans hb,
    fun j hj => ⟨rngStep_mm_read_ne hj.symm c, rngStep_rsl_read_ne hj.symm c⟩⟩

/-- R78, R80: steps `k` to `n - 1` leave every word of another index alone. -/
theorem rngSteps_read_of_outside (c : RegenLocals) {k n : Nat} (hkn : k ≤ n) (hn : n ≤ 256) {j : BitVec 8}
    (hj : j.toNat < k ∨ n ≤ j.toNat) :
    (rngSteps n c).mm.read j = (rngSteps k c).mm.read j ∧ (rngSteps n c).rsl.read j = (rngSteps k c).rsl.read j := by
  induction n, hkn using Nat.le_induction with
  | base => exact ⟨rfl, rfl⟩
  | succ n hkn ih =>
    obtain ⟨hmm, hrsl⟩ := ih (by omega) (by omega)
    have hne : BitVec.ofNat 8 n ≠ j := by
      rintro rfl
      rw [BitVec.toNat_ofNat] at hj
      omega
    rw [rngSteps_succ, rngStep_mm_read_ne hne, rngStep_rsl_read_ne hne]
    exact ⟨hmm, hrsl⟩

/-- R80: before step `n`, the words of `MM` from index `n` on are those of before the cycle. -/
theorem rngSteps_mm_read_of_le (g : Gen) {n : Nat} {j : BitVec 8} (hj : n ≤ j.toNat) :
    (rngSteps n (regenStart g)).mm.read j = g.mm.read j := by
  have hn : n ≤ 256 := hj.trans j.isLt.le
  rw [(rngSteps_read_of_outside _ (Nat.zero_le n) hn (.inr hj)).1, rngSteps_zero, regenStart_mm]

/-- Settles O35: steps 0 to `i - 1` do not reach index `i` yet, and steps `i + 1` to 255 do not come back to it. -/
theorem regenWritesEachWordOnce : Obligations.RegenWritesEachWordOnce := by
  intro g i hi
  have hindex : (BitVec.ofNat 8 i).toNat = i := Nat.mod_eq_of_lt hi
  obtain ⟨hmm, hrsl⟩ := rngSteps_read_of_outside (regenStart g) (show i + 1 ≤ 256 from hi) le_rfl
    (.inl (show (BitVec.ofNat 8 i).toNat < i + 1 by omega))
  refine ⟨rngSteps_mm_read_of_le g hindex.ge, hmm, ?_⟩
  calc (regen g).rsl.read (BitVec.ofNat 8 i)
      = (rngSteps (i + 1) (regenStart g)).rsl.read (BitVec.ofNat 8 i) := hrsl
    _ = (rngSteps (i + 1) (regenStart g)).b := by rw [rngSteps_succ, rngStep_rsl_read_same]

/-- Settles O37: in the first half pass the paired index is `i + 128`, which step `i` has yet to reach. -/
theorem firstHalfReadsEarlierWords : Obligations.FirstHalfReadsEarlierWords := by
  intro g i hi
  have hpaired : pairedIndex (BitVec.ofNat 8 i) = BitVec.ofNat 8 (i + 128) := by
    rw [pairedIndex_eq_ofNat, BitVec.toNat_ofNat, Nat.mod_eq_of_lt (by omega : i < 2 ^ 8),
      Nat.mod_eq_of_lt (by omega)]
  rw [hpaired]
  exact rngSteps_mm_read_of_le g (by rw [BitVec.toNat_ofNat]; omega)

end Sys2Proof.Machine
end

section
/-! PROOFS. `NEXT` and `DISCARD` in closed form: where the cursor stands after `n` extractions, and how many cycles have run. -/

namespace Sys2Proof.Machine

/-- R82, R86: with words left, an extraction only moves the cursor. -/
theorem Gen.advance_of_succ {g : Gen} {c : Cursor} (hc : c.val + 1 = g.cnt.val) : g.advance = { g with cnt := c } := by
  have hne : g.cnt ≠ 0 := fun h0 => Nat.succ_ne_zero c.val (hc.trans (congrArg Fin.val h0))
  have hpred : Cursor.pred g.cnt = c := Fin.ext (by rw [Cursor.pred_val]; omega)
  rw [Gen.advance_of_ne hne, hpred]

/-- R53, R82: the whole next state of `NEXT`, from the generator the extraction leaves. -/
theorem exec_next_of_advance {s : State} {g : Gen} (h : s.gen.advance = g) :
    exec .next s = .next { s with gen := g, rsp := s.rsp ++ [responseWord .ok g.output] } := by
  rw [exec_next, h]
  rfl

/-- Settles O39: the two branches of an extraction; the word returned stands at the cursor it leaves. -/
theorem nextReturnsTheWordAtTheMovedCursor : Obligations.NextReturnsTheWordAtTheMovedCursor :=
  fun _ => ⟨fun hzero => exec_next_of_advance (Gen.advance_of_zero hzero),
    fun _ hc => exec_next_of_advance (Gen.advance_of_succ hc)⟩

theorem Gen.advances_add (m n : Nat) (g : Gen) : g.advances (m + n) = (g.advances m).advances n := by
  induction m generalizing g with
  | zero => rw [Nat.zero_add, Gen.advances_zero]
  | succ m ih => rw [Nat.succ_add, Gen.advances_succ, Gen.advances_succ, ih]

/-- R85: while words of the block are left, extractions only move the cursor. -/
theorem Gen.advances_of_le {g : Gen} {n : Nat} {c : Cursor} (hn : n ≤ g.cnt.val) (hc : c.val = g.cnt.val - n) :
    g.advances n = { g with cnt := c } := by
  induction n generalizing c with
  | zero =>
    obtain rfl : c = g.cnt := Fin.ext hc
    rfl
  | succ n ih =>
    have hlt := g.cnt.isLt
    have hbefore : g.advances n = { g with cnt := ⟨g.cnt.val - n, by omega⟩ } := ih (by omega) rfl
    rw [Gen.advances_add, hbefore]
    exact Gen.advance_of_succ (show c.val + 1 = g.cnt.val - n by omega)

/-- R81: cycles carry the cursor along. -/
theorem regen_iterate_with_cnt (k : Nat) (g : Gen) (c : Cursor) :
    regen^[k] { g with cnt := c } = { regen^[k] g with cnt := c } := by
  have hstep : Function.Semiconj (fun g : Gen => { g with cnt := c }) regen regen :=
    fun g => (regen_with_rsl_cnt g g.rsl c).symm
  exact (hstep.iterate_right k g).symm

/-- R19, R96: each cycle counts one in `CC`. -/
theorem regen_iterate_cc (q : Nat) (g : Gen) : (regen^[q] g).cc = g.cc + BitVec.ofNat 32 q := by
  induction q with
  | zero => exact (BitVec.add_zero g.cc).symm
  | succ q ih =>
    rw [Function.iterate_succ_apply', regen_cc, ih, BitVec.add_assoc, BitVec.ofNat_add]
    rfl

/-- R82, R85: with the block used up, `r + 1` extractions run one cycle and take the last `r + 1` words of the new block. -/
theorem Gen.advances_of_used_up (g : Gen) {r : Nat} {c : Cursor} (hr : r < 256) (hc : c.val = 255 - r) :
    Gen.advances (r + 1) { g with cnt := 0 } = { regen g with cnt := c } := by
  have hcycle : regen { g with cnt := 0 } = { regen g with cnt := 0 } := regen_with_rsl_cnt g g.rsl 0
  rw [Gen.advances_succ, Gen.advance_of_zero rfl, hcycle]
  exact Gen.advances_of_le (show r ≤ 255 by omega) hc

/-- R85: `k` cycles use up the words left and `k` blocks more. -/
theorem Gen.advances_cnt_add_blocks (g : Gen) (k : Nat) :
    g.advances (g.cnt.val + 256 * k) = { regen^[k] g with cnt := 0 } := by
  induction k with
  | zero => exact Gen.advances_of_le le_rfl (Nat.sub_self _).symm
  | succ k ih =>
    rw [Nat.mul_succ, ← Nat.add_assoc, Gen.advances_add, ih, Gen.advances_of_used_up _ (r := 255) (c := 0) (by decide) rfl,
      Function.iterate_succ_apply']

/-- R85: past the words left and `k` blocks more, `r + 1` extractions leave the cursor at `255 - r` of the next block. -/
theorem Gen.advances_into_block (g : Gen) (k : Nat) {r : Nat} {c : Cursor} (hr : r < 256) (hc : c.val = 255 - r) :
    g.advances (g.cnt.val + 256 * k + (r + 1)) = { regen^[k + 1] g with cnt := c } := by
  rw [Gen.advances_add, Gen.advances_cnt_add_blocks, Gen.advances_of_used_up _ hr hc, Function.iterate_succ_apply']

/-- R53, R85: the whole next state of `DISCARD n`, from the generator `n` extractions leave. -/
theorem exec_discard_of_advances {n : BitVec 64} {s : State} {g : Gen} (h : s.gen.advances n.toNat = g) :
    exec (.discard n) s = .next { s with gen := g, rsp := s.rsp ++ [responseWord .ok 0] } := by
  rw [exec_discard, h]
  rfl

/-- Settles O42: `n` is the words left, whole blocks, and one to 256 words of the block the last cycle gives. -/
theorem discardRunsTheStatedNumberOfCycles : Obligations.DiscardRunsTheStatedNumberOfCycles := by
  refine fun n s c => ⟨fun hn hc => exec_discard_of_advances (Gen.advances_of_le hn hc), fun hn hc =>
    exec_discard_of_advances ?_⟩
  have hsplit : n.toNat = s.gen.cnt.val + 256 * ((n.toNat - s.gen.cnt.val - 1) / 256) +
      ((n.toNat - s.gen.cnt.val - 1) % 256 + 1) := by omega
  have hinto := s.gen.advances_into_block ((n.toNat - s.gen.cnt.val - 1) / 256) (Nat.mod_lt _ (by decide)) hc
  rwa [← hsplit, Nat.add_comm _ 1] at hinto

/-- R83: from a full block, extraction `256 q + r + 1` leaves the cursor at `255 - r` of block `q`. -/
theorem Gen.advances_of_full {g : Gen} {r : Nat} {c : Cursor} (hfull : g.cnt = 256) (q : Nat) (hr : r < 256)
    (hc : c.val = 255 - r) : g.advances (256 * q + r + 1) = { regen^[q] g with cnt := c } := by
  have hcnt : g.cnt.val = 256 := congrArg Fin.val hfull
  cases q with
  | zero => exact Gen.advances_of_le (by omega) (by omega)
  | succ k =>
    have hsplit : 256 * (k + 1) + r + 1 = g.cnt.val + 256 * k + (r + 1) := by omega
    rw [hsplit]
    exact g.advances_into_block k hr hc

/-- Settles O40: the next `NEXT` is extraction `256 q + r + 1`. -/
theorem wordsAreEmittedBlockByBlockFromTheEnd : Obligations.WordsAreEmittedBlockByBlockFromTheEnd := by
  intro g s q r c hfull hr hc hgen
  have hadvance : s.gen.advance = { regen^[q] g with cnt := c } := by
    rw [hgen, ← Gen.advances_of_full hfull q hr hc, Gen.advances_add _ 1]
    rfl
  refine ⟨regen_iterate_cc q g, ?_⟩
  rw [exec_next_of_advance hadvance, ← hc]
  rfl

end Sys2Proof.Machine
end

section
/-! PROOFS. The last of a run of `NEXT`, alone and after `DISCARD`. -/

namespace Sys2Proof.Machine

/-- R58: the loop of `NEXT` may be unrolled at its end. -/
theorem nextLoop_succ_of_next {n : Nat} {s u : State} (h : nextLoop n s = .next u) : nextLoop (n + 1) s = exec .next u := by
  induction n generalizing s with
  | zero =>
    cases h
    rfl
  | succ n ih => exact ih h

/-- Settles O43: both ways the last command is a `NEXT` that finds the generator `n` extractions on. -/
theorem discardThenNextIsTheLastOfNexts : Obligations.DiscardThenNextIsTheLastOfNexts := by
  intro n s
  obtain ⟨u, hloop, hgen, -⟩ := nextLoop_completes n.toNat s
  refine ⟨_, _, _, exec_discard_of_advances hgen.symm, exec_next_of_advance rfl,
    (nextLoop_succ_of_next hloop).trans (exec_next_of_advance rfl), rfl, ?_⟩
  rw [List.getLast?_concat, List.getLast?_concat]

end Sys2Proof.Machine
end

section
/-! PROOFS. The first `NEXT` after reset. -/

namespace Sys2Proof.Machine

open Sys2Proof.Laws

/-- The cells of the number 0 hold the generator of before reset; said here so that no proof leans on the tests' file. -/
theorem sim_beforeReset :
    Eval.Sim 0 (Bank.fill 3 0) Gen.beforeReset.mm Gen.beforeReset.rsl Gen.beforeReset.aa Gen.beforeReset.bb := by
  have hcell : ∀ i, Eval.rd 0 i = 0 := fun i => by rw [Eval.rd, Nat.zero_shiftRight, Nat.zero_mod]
  refine ⟨fun i => ?_, fun i => ?_, fun i => ?_, hcell 520, hcell 521⟩
  · rw [hcell, Bank.read_fill]
    rfl
  · rw [hcell]
    exact congrArg BitVec.toNat (zeroBuffer_read i).symm
  · rw [hcell]
    exact congrArg BitVec.toNat (zeroBuffer_read i).symm

/-- R100: the kernel evaluates `RANDINIT` on the cells. -/
theorem reset_rsl_last : State.reset.gen.rsl.read 255 = 0x182600F3 := by
  obtain ⟨p, hsim⟩ := Eval.sim_randinit { Gen.beforeReset with rsl := zeroBuffer } sim_beforeReset
  have hcell : Eval.rd (Eval.randinitN 0) (264 + 255) = 0x182600F3 := by decide +kernel
  exact BitVec.eq_of_toNat_eq ((hsim.rsl 255).symm.trans hcell)

/-- Settles O14: the word is that of `NEXT`, the cursor is armed, and the word returned is the last of `RSL`. -/
theorem firstNextAfterResetReturnsReferenceWord : Obligations.FirstNextAfterResetReturnsReferenceWord := by
  have hdecode : decode (BitVec.ofNat 72 (0x050000000000000000 % 2 ^ 72)) = .ok .next := by decide
  have hadvance : State.reset.gen.advance = { State.reset.gen with cnt := 255 } := seedWith_advance zeroBuffer Gen.beforeReset
  have hstep := (step_eq_exec_of_decode (s := State.reset.withFetchWord 72 0x050000000000000000) rfl rfl rfl hdecode).trans
    (exec_next_of_advance hadvance)
  refine ⟨_, hstep, ?_, rfl⟩
  rw [Gen.output_of_cnt_255, reset_rsl_last]
  rfl

end Sys2Proof.Machine
end

section
/-! PROOFS. The steps that run no command: a reset event, and a core that is idle or waits. -/

namespace Sys2Proof.Machine

/-- R99: reset is one fixed generator, whatever stood before. -/
theorem resetGen_eq_reset_gen (g : Gen) : resetGen g = State.reset.gen :=
  seedWith_gen_irrelevant zeroBuffer g Gen.beforeReset

theorem State.performReset_eq (s : State) :
    s.performReset = { s with gen := State.reset.gen, running := none, sdat := [] } := by
  rw [State.performReset, resetGen_eq_reset_gen]

/-- R91: a reset event is looked at before the core and `CMD` are. -/
theorem step_of_resetDue {s : State} (hrst : s.resetDue = true) : step s = .next s.tick.performReset :=
  if_pos hrst

/-- Settles O12: the step is the reset event, and its zero seed overwrites the generator. That `CMD`, `ENT` and the responses stay
is the model's choice (log entry 10), and so is that a source or host that stopped stays stopped (log entry 17). -/
theorem resetEventEstablishesTheResetState : Obligations.ResetEventEstablishesTheResetState := by
  intro s hrst
  rw [step_of_resetDue hrst, State.performReset_eq]
  rfl

/-- Settles O7: of the five forms of a step, a reset event is ruled out, and the two that take a command need an idle core and a
command on `CMD`. That the waiting core stays as it is, and the reset schedule, are the model's choices (log entries 8 and 10). -/
theorem idleOrWaitingCoreKeepsEverything : Obligations.IdleOrWaitingCoreKeepsEverything := by
  intro s hrst hstays
  have hnoHead : ∀ r later, s.running = none → s.cmd ≠ r :: later := by
    intro r later hidle hcmd
    rcases hstays with ⟨i, hwaits⟩ | hempty
    · cases hidle.symm.trans hwaits
    · cases hempty.symm.trans hcmd
  rcases step_cases s with ⟨hreset, -⟩ | ⟨-, -, hstep⟩ | ⟨-, -, -, hstep⟩ |
    ⟨r, later, i, -, hidle, hcmd, -, -⟩ | ⟨r, later, e, -, hidle, hcmd, -, -⟩
  · cases hrst.symm.trans hreset
  · exact hstep
  · exact hstep
  · exact absurd hcmd (hnoHead r later hidle)
  · exact absurd hcmd (hnoHead r later hidle)

end Sys2Proof.Machine
end

section
/-! PROOFS. The reset state: the zero seed from any state, and its listed values (R99, R100). -/

namespace Sys2Proof.Machine

open Sys2Proof.Laws

/-- R99: `RANDINIT` on an all-zero `RSL` is the zero seed. -/
theorem randinit_of_rsl_zero {g : Gen} (hzero : ∀ k, g.rsl.read k = 0) : randinit g = State.reset.gen := by
  have hrsl : g.rsl = zeroBuffer := Bank.ext_read fun k => (hzero k).trans (zeroBuffer_read k).symm
  calc randinit g = seedWith zeroBuffer g := by rw [seedWith, ← hrsl]
    _ = State.reset.gen := resetGen_eq_reset_gen g

/-- Settles O11: `RANDINIT` on zeros, `SEED0` and a reset event are all the zero seed, which keeps nothing of what stood before. -/
theorem resetIsTheZeroSeedFromAnyState : Obligations.ResetIsTheZeroSeedFromAnyState := by
  refine ⟨fun g => randinit_of_rsl_zero, fun s => ?_, fun s hrst => ?_⟩
  · have hgen : seedWith zeroBuffer s.gen = State.reset.gen := resetGen_eq_reset_gen s.gen
    rw [exec_seed0, State.seedAndRespond, hgen]
    rfl
  · exact ⟨_, resetEventEstablishesTheResetState s hrst, rfl, rfl, rfl⟩

/-- R100: the cells that hold the reset generator. -/
theorem sim_reset : ∃ p, Eval.Sim (Eval.randinitN 0) p State.reset.gen.mm State.reset.gen.rsl State.reset.gen.aa State.reset.gen.bb :=
  Eval.sim_randinit { Gen.beforeReset with rsl := zeroBuffer } sim_beforeReset

/-- Settles O13: the kernel evaluates `RANDINIT` on the cells; `BB` is `RSL[255]` by the invariant, `CC` and `CNT` stand as `RANDINIT`
sets them. -/
theorem resetValuesAreTheListedOnes : Obligations.ResetValuesAreTheListedOnes := by
  obtain ⟨p, hsim⟩ := sim_reset
  obtain ⟨⟨hbb, -⟩, -⟩ : State.reset.Inv := resetStateMeetsInvariant
  have hcells : Eval.rd (Eval.randinitN 0) 520 = 0x44D22B48 ∧ Eval.rd (Eval.randinitN 0) (264 + 0) = 0xE76DD339 ∧
      Eval.rd (Eval.randinitN 0) (8 + 0) = 0x56047A81 ∧ Eval.rd (Eval.randinitN 0) (8 + 255) = 0x71D80509 := by
    decide +kernel
  obtain ⟨haa, hrsl0, hmm0, hmm255⟩ := hcells
  exact ⟨BitVec.eq_of_toNat_eq (hsim.a.symm.trans haa), hbb.trans reset_rsl_last, rfl, rfl, reset_rsl_last,
    BitVec.eq_of_toNat_eq ((hsim.rsl 0).symm.trans hrsl0), BitVec.eq_of_toNat_eq ((hsim.mm 0).symm.trans hmm0),
    BitVec.eq_of_toNat_eq ((hsim.mm 255).symm.trans hmm255)⟩

end Sys2Proof.Machine
end

section
/-! PROOFS. The paired read of the second half pass (R105). -/

namespace Sys2Proof.Machine

/-- Settles O36: in the second half pass the paired index is `i - 128`, which step `i - 128` wrote and no step after it up to `i`. -/
theorem secondHalfReadsRewrittenWords : Obligations.SecondHalfReadsRewrittenWords := by
  intro g i hlow hhigh
  have hpaired : pairedIndex (BitVec.ofNat 8 i) = BitVec.ofNat 8 (i - 128) := by
    rw [pairedIndex_eq_ofNat, BitVec.toNat_ofNat, show (i % 2 ^ 8 + 128) % 256 = i - 128 by omega]
  have hwritten : (BitVec.ofNat 8 (i - 128)).toNat < i - 128 + 1 := by
    rw [BitVec.toNat_ofNat]
    omega
  rw [hpaired]
  exact (rngSteps_read_of_outside (regenStart g) (by omega) hhigh.le (.inl hwritten)).1

end Sys2Proof.Machine
end

section
/-! PROOFS. The duties of the host and of the entropy source met, and not met (R108). -/

namespace Sys2Proof.Machine

/-- R108 (1): a host that goes on sending completes a payload that is not too long. -/
theorem supply_of_live {α : Type} {l : List α} {n : Nat} {live : Bool} (hlen : l.length ≤ n) (hlive : live = true)
    (free : Nat → α) (start cap : Nat) :
    supply (some l) live free start n cap =
      .whole (l.take cap ++ freeItems free (start + l.length) (min n cap - l.length)) := by
  rw [supply, if_neg hlen.not_gt, if_pos (.inr hlive)]

/-- R108 (1): a host that stops leaves a payload short. -/
theorem supply_of_stopped {α : Type} {l : List α} {n : Nat} {live : Bool} (hlen : l.length < n) (hstopped : live = false)
    (free : Nat → α) (start cap : Nat) :
    supply (some l) live free start n cap = .starved := by
  rw [supply, if_neg hlen.not_gt, if_neg (by simp [hlen.ne, hstopped])]

/-- R108 (2): a source that goes on answering gives all its answers. -/
theorem entropyWords_of_live (listed : List Word) {live : Bool} (hlive : live = true) (start : Nat) :
    entropyWords listed live start =
      some (listed.take 256 ++ freeItems Config.entropyWord (start + listed.length) (256 - listed.length)) :=
  if_pos (.inr hlive)

/-- R108 (2): a source that stops before its 256th answer. -/
theorem entropyWords_of_stopped {listed : List Word} {live : Bool} (hlen : listed.length < 256) (hstopped : live = false)
    (start : Nat) : entropyWords listed live start = none := by
  rw [entropyWords, Config.randsiz, if_neg (by simp [hlen, hstopped])]

/-- R50, R51: with nothing listed on `SDAT`, taking a payload only counts its items. -/
theorem State.consumeSdat_of_nil {s : State} (hsdat : s.sdat = []) (n : Nat) :
    s.consumeSdat n = { s with sdatTaken := s.sdatTaken + n } := by
  rw [State.consumeSdat, ← hsdat]

/-- R52: with no answer listed on `ENT`, taking the 256 only counts them. -/
theorem State.consumeEnt_of_nil {s : State} (hent : s.ent = []) :
    s.consumeEnt = { s with entTaken := s.entTaken + 256 } := by
  rw [State.consumeEnt, hent, List.drop_nil, ← hent, Config.randsiz]

/-- R108 (1): a payload command whose host lists nothing and goes on sending is seeded from some buffer. -/
theorem seedFromPayload_of_live {α : Type} (pick : SdatItem → Option α) (i : Instr) (n : Nat) (buffer : List α → Bank 8)
    (free : Nat → α) (cap : Nat) {s : State} (hsdat : s.sdat = []) (hlive : s.sdatLive = true) :
    ∃ b, seedFromPayload i n buffer (supply (readItems pick s.sdat) s.sdatLive free s.sdatTaken n cap) s =
      .next { s with gen := seedWith b s.gen, sdatTaken := s.sdatTaken + n, rsp := s.rsp ++ [responseWord .ok 0] } := by
  obtain ⟨used, hused⟩ : ∃ used, supply (readItems pick s.sdat) s.sdatLive free s.sdatTaken n cap = .whole used :=
    ⟨_, by rw [hsdat, readItems]; exact supply_of_live (Nat.zero_le n) hlive free _ cap⟩
  refine ⟨buffer used, ?_⟩
  rw [hused, seedFromPayload, State.consumeSdat_of_nil hsdat]
  rfl

/-- Settles O25: with nothing listed, the free items complete each supply, whatever they are. That an agent that goes on gives free
items is the model's choice (log entries 5 and 6). -/
theorem seedCommandsCompleteWhileDutiesAreMet : Obligations.SeedCommandsCompleteWhileDutiesAreMet := by
  refine ⟨fun n s hsdat hlive => ⟨?_, ?_⟩, fun s hent hlive => ?_⟩
  · exact seedFromPayload_of_live SdatItem.byte? (.seedb n) n.toNat byteBuffer _ _ hsdat hlive
  · exact seedFromPayload_of_live SdatItem.word? (.seedw n) n.toNat wordBuffer _ _ hsdat hlive
  · obtain ⟨words, hwords⟩ : ∃ words, entropyWords s.ent s.entLive s.entTaken = some words :=
      ⟨_, entropyWords_of_live s.ent hlive s.entTaken⟩
    refine ⟨copyWords words 0 s.gen.rsl, ?_⟩
    rw [exec_seede, execSeede, hwords, seedFromEntropy, State.consumeEnt_of_nil hent]
    rfl

/-- R108 (1): a payload command whose host stops short takes the items that came and waits. -/
theorem seedFromPayload_of_stopped {α : Type} (i : Instr) {n : Nat} (buffer : List α → Bank 8) {items : List α}
    (free : Nat → α) (cap : Nat) {s : State} (hcame : s.sdat.length = items.length) (hshort : items.length < n)
    (hstopped : s.sdatLive = false) :
    seedFromPayload i n buffer (supply (some items) s.sdatLive free s.sdatTaken n cap) s =
      .next { s with running := some i, sdat := [], sdatTaken := s.sdatTaken + items.length } := by
  rw [supply_of_stopped hshort hstopped, seedFromPayload, State.takeListedSdat, hcame]
  rfl

/-- Settles O26: each supply falls short, so what came is taken and the command waits. That the generator keeps its value meanwhile
is the model's choice (log entry 8). -/
theorem shortSupplyLeavesTheCommandWaiting : Obligations.ShortSupplyLeavesTheCommandWaiting := by
  refine ⟨fun n s bytes hsdat hshort hstopped => ?_, fun n s words hsdat hshort hstopped => ?_, fun s hshort hstopped => ?_⟩
  · rw [exec_seedb, execSeedb, show readItems SdatItem.byte? s.sdat = some bytes by rw [hsdat, readItems_byte]]
    exact seedFromPayload_of_stopped _ _ _ _ (by rw [hsdat, List.length_map]) hshort hstopped
  · rw [exec_seedw, execSeedw, show readItems SdatItem.word? s.sdat = some words by rw [hsdat, readItems_word]]
    exact seedFromPayload_of_stopped _ _ _ _ (by rw [hsdat, List.length_map]) hshort hstopped
  · rw [exec_seede, execSeede, entropyWords_of_stopped hshort hstopped, seedFromEntropy]
    rfl

end Sys2Proof.Machine
end
